-- ==== Sys2Proof/Word.lean ====
section
/-! DEFINITION. The widths CORE moves: the 8-bit companded byte and the 16-bit sample or port pattern
(spec 00_scope.md R10), the 3-bit selector and the 19-bit command word (30_encoding.md R50, R53). Bit 0 is the
least significant bit (R11); `a ++ b` is the spec's `{a, b}`. -/

namespace Sys2Proof

/-- A companded byte, wire or plain (`W_CMP`, R10). -/
abbrev Byte := BitVec 8

/-- The pattern on `din` or `dout` (`W_DIN`, `W_DOUT`, R10). -/
abbrev Word := BitVec 16

/-- The operation selector `op[2:0]` (`W_OP`, R10, R50). -/
abbrev Selector := BitVec 3

/-- The command word `{op[2:0], din[15:0]}` (R53). -/
abbrev CommandWord := BitVec 19

end Sys2Proof
end

