-- ==== Sys2Proof/Syntax.lean ====
section
/-! DEFINITION. The six operations of CORE as syntax (spec 30_encoding.md R51), one constructor for each row of the
opcode table, their operand and result formats (R51, R52), and an operation as it is written down (R62). -/

namespace Sys2Proof

/-- The mnemonics of R51, in selector order. -/
inductive Mnemonic where
  | lin2mulaw | mulaw2lin | lin2alaw | alaw2lin | ulaw2alaw | alaw2ulaw
  deriving DecidableEq, Repr

/-- One operation with its operand, as the command word holds it. An encoder's operand is the whole `din`; the
operand of a byte operation is `din[7:0]` (`y`), and `din[15:8]` (`ignored`) is kept as syntax so that a command word
and its operation determine each other (R54; log 10). -/
inductive Instr where
  /-- μ-law encoder, R70. -/
  | lin2mulaw (x : Word)
  /-- μ-law decoder, R85. -/
  | mulaw2lin (ignored y : Byte)
  /-- A-law encoder, R95. -/
  | lin2alaw (x : Word)
  /-- A-law decoder, R110. -/
  | alaw2lin (ignored y : Byte)
  /-- Direct transcoder, μ-law to A-law, R121. -/
  | ulaw2alaw (ignored y : Byte)
  /-- Direct transcoder, A-law to μ-law, R122. -/
  | alaw2ulaw (ignored y : Byte)
  deriving DecidableEq, Repr

/-- The mnemonic of an operation. -/
def Instr.mnemonic : Instr → Mnemonic
  | .lin2mulaw _ => .lin2mulaw
  | .mulaw2lin _ _ => .mulaw2lin
  | .lin2alaw _ => .lin2alaw
  | .alaw2lin _ _ => .alaw2lin
  | .ulaw2alaw _ _ => .ulaw2alaw
  | .alaw2ulaw _ _ => .alaw2ulaw

/-- What an operand or a result is (the columns of R51): a 16-bit signed sample, or a wire byte of one law. -/
inductive Format where
  | sample | mulawByte | alawByte
  deriving DecidableEq, Repr

/-- Width in bits (R10, R42). -/
def Format.width : Format → Nat
  | .sample => 16
  | .mulawByte => 8
  | .alawByte => 8

/-- The operand column of R51. -/
def Mnemonic.operandFormat : Mnemonic → Format
  | .lin2mulaw => .sample
  | .mulaw2lin => .mulawByte
  | .lin2alaw => .sample
  | .alaw2lin => .alawByte
  | .ulaw2alaw => .mulawByte
  | .alaw2ulaw => .alawByte

/-- The result column of R51. -/
def Mnemonic.resultFormat : Mnemonic → Format
  | .lin2mulaw => .mulawByte
  | .mulaw2lin => .sample
  | .lin2alaw => .alawByte
  | .alaw2lin => .sample
  | .ulaw2alaw => .alawByte
  | .alaw2ulaw => .mulawByte

/-- An operand as it is written (R62): `0x` and four digits, `0x` and two digits, or a signed decimal. -/
inductive WrittenOperand where
  | hex4 (n : Nat)
  | hex2 (n : Nat)
  | decimal (x : Int)
  deriving DecidableEq, Repr

/-- `MNEMONIC operand` (R62). -/
structure Written where
  mnemonic : Mnemonic
  operand : WrittenOperand
  deriving DecidableEq, Repr

end Sys2Proof
end

