-- ==== Sys2Proof/WellFormed.lean ====
section
/-! DEFINITION. What is well-formed. Every operand value of a defined selector is legal (spec 30_encoding.md R61), so
an `Instr` needs no check: its fields' types are the whole of it. What can be ill-formed is a command word, whose
selector may be reserved (R59, R172), and an operation as it is written down (R62). -/

namespace Sys2Proof

/-- Selectors 0 to 5 are defined, 6 and 7 reserved (R51, R59). -/
def definedSelector (op : Selector) : Bool := op.toNat < 6

/-- A command word a correct host may present (R59, R172). -/
def wfCommand (c : CommandWord) : Bool := definedSelector (c.extractLsb' 16 3)

/-- A written operand fits a format (R62): four digits for a sample pattern, two for a byte, a decimal only for a
sample and only in the sample range. -/
def WrittenOperand.fits : WrittenOperand → Format → Bool
  | .hex4 n, .sample => n < 65536
  | .decimal x, .sample => -32768 ≤ x && x ≤ 32767
  | .hex2 n, .mulawByte => n < 256
  | .hex2 n, .alawByte => n < 256
  | .hex4 _, .mulawByte => false
  | .hex4 _, .alawByte => false
  | .hex2 _, .sample => false
  | .decimal _, .mulawByte => false
  | .decimal _, .alawByte => false

/-- A written operation is well-formed when its operand fits its mnemonic's operand format (R51, R62). -/
def Written.wf (o : Written) : Bool := o.operand.fits o.mnemonic.operandFormat

end Sys2Proof
end

