-- ==== Sys2Proof/Decode.lean ====
section
/-! DEFINITION. The command word and back (spec 30_encoding.md R51, R53, R54, R56): a decoder that is total on all 19-bit
words and rejects the reserved selectors by name (R59), the encoder written from the same table, the match and mask
rows of R56, and the assembling of a written operation (R62). -/

namespace Sys2Proof

/-- `cmd[18:16]` (R53). -/
def selectorOf (c : CommandWord) : Selector := c.extractLsb' 16 3

/-- `cmd[15:0]` (R53). -/
def dinOf (c : CommandWord) : Word := c.extractLsb' 0 16

/-- `din[7:0]`, the operand of a byte operation (R54). -/
def lowByte (din : Word) : Byte := din.extractLsb' 0 8

/-- `din[15:8]`, ignored by a byte operation (R54). -/
def highByte (din : Word) : Byte := din.extractLsb' 8 8

/-- What the decoder reads from a command word: an operation, or a reserved selector by name (R59). -/
inductive Decoded where
  | instr (i : Instr)
  | reservedSelector (op : Selector)
  deriving DecidableEq, Repr

/-- The operation that selector `op` runs on operand `din` (R51, R54). -/
def decodePorts (op : Selector) (din : Word) : Decoded :=
  match op.toNat with
  | 0 => .instr (.lin2mulaw din)
  | 1 => .instr (.mulaw2lin (highByte din) (lowByte din))
  | 2 => .instr (.lin2alaw din)
  | 3 => .instr (.alaw2lin (highByte din) (lowByte din))
  | 4 => .instr (.ulaw2alaw (highByte din) (lowByte din))
  | 5 => .instr (.alaw2ulaw (highByte din) (lowByte din))
  | _ => .reservedSelector op

/-- The decoder, total on command words (R53, R56). -/
def decode (c : CommandWord) : Decoded := decodePorts (selectorOf c) (dinOf c)

/-- The selector values of R51. -/
def Mnemonic.selector : Mnemonic → Selector
  | .lin2mulaw => 0b000#3
  | .mulaw2lin => 0b001#3
  | .lin2alaw => 0b010#3
  | .alaw2lin => 0b011#3
  | .ulaw2alaw => 0b100#3
  | .alaw2ulaw => 0b101#3

/-- The operand port pattern of an operation (R54). -/
def Instr.din : Instr → Word
  | .lin2mulaw x => x
  | .mulaw2lin ignored y => ignored ++ y
  | .lin2alaw x => x
  | .alaw2lin ignored y => ignored ++ y
  | .ulaw2alaw ignored y => ignored ++ y
  | .alaw2ulaw ignored y => ignored ++ y

/-- The encoder: `cmd = {op[2:0], din[15:0]}` (R53). -/
def encode (i : Instr) : CommandWord := i.mnemonic.selector ++ i.din

/-- One row of the opcode map. -/
structure OpcodeRow where
  mnemonic : Mnemonic
  pattern : CommandWord
  mask : CommandWord
  deriving DecidableEq, Repr

/-- The six defined rows of R56's table (its `match` column is `pattern` here). -/
def opcodeMap : List OpcodeRow :=
  [ ⟨.lin2mulaw, 0x00000#19, 0x70000#19⟩,
    ⟨.mulaw2lin, 0x10000#19, 0x70000#19⟩,
    ⟨.lin2alaw, 0x20000#19, 0x70000#19⟩,
    ⟨.alaw2lin, 0x30000#19, 0x70000#19⟩,
    ⟨.ulaw2alaw, 0x40000#19, 0x70000#19⟩,
    ⟨.alaw2ulaw, 0x50000#19, 0x70000#19⟩ ]

/-- The port pattern of a written operand: a pattern as it is, a decimal sample in two's complement (R29, R62). A
byte is written with two digits, so the ignored `din[15:8]` is 0 in it (log 17). -/
def WrittenOperand.pattern : WrittenOperand → Word
  | .hex4 n => BitVec.ofNat 16 n
  | .hex2 n => BitVec.ofNat 16 n
  | .decimal x => BitVec.ofInt 16 x

/-- The command word of a well-formed written operation (R53, R62); none for an ill-formed one. -/
def Written.assemble (o : Written) : Option CommandWord :=
  if o.wf then some (o.mnemonic.selector ++ o.operand.pattern) else none

/-- The command word that a number of `nbits` bits writes: its bits 18:0. Bits above 18 reach no port (log 12). -/
def commandOfTableWord (nbits w : Nat) : CommandWord := BitVec.ofNat 19 (w % 2 ^ nbits)

/-- The operation the decoder reads from a word numbered as the opcode table numbers it. -/
def decodeTableWord (nbits w : Nat) : Option Instr :=
  match decode (commandOfTableWord nbits w) with
  | .instr i => some i
  | .reservedSelector _ => none

end Sys2Proof
end

