-- ==== Sys2Proof/Config.lean ====
section
/-! DEFINITION. The constants of CORE (spec 00_scope.md R10, 10_state.md R27): configuration, never state, the same
at all times and in every instance (70_reset_and_hazards.md R171). The contents of the two direct-conversion tables
are OPEN in the spec (44_transcode.md R123), and what `dout` carries for a reserved selector is unspecified
(30_encoding.md R59): they are constants with no body here, so no proof can see a value. -/

namespace Sys2Proof

/-- The two readings of a negative A-law sample (42_alaw_encode.md R102): its absolute value, or its ones'
complement `-x - 1`. -/
inductive ANeg where
  | abs
  | onesComplement
  deriving DecidableEq, Repr

namespace Config

/-- `MU_BIAS`, 132 = 0x84 (R10, R73). -/
def muBias : Nat := 132

/-- `MU_CLIP` on the 16-bit magnitude (R10, R72; the spec's decision D7). UNVERIFIED, log 9. -/
def muClip : Nat := 32635

/-- `MU_SEG_END`: upper ends of the μ-law segments on the biased magnitude (R27, R74). -/
def muSegEnd : List Nat := [0xFF, 0x1FF, 0x3FF, 0x7FF, 0xFFF, 0x1FFF, 0x3FFF, 0x7FFF]

/-- `MU_INVERT`: the whole μ-law byte is complemented (R10, R30). -/
def muInvert : Byte := 0xFF#8

/-- `A_XOR` (R10, R30, R99). -/
def aXor : Byte := 0x55#8

/-- `A_SHIFT_IN`: the A-law magnitude is scaled down by 8 before the search (R10, R97; the spec's decision D10).
UNVERIFIED, log 9. -/
def aShiftIn : Nat := 3

/-- `A_THR`: lower ends of the A-law segments on the scaled magnitude (R10, R27, R97). -/
def aThr : List Nat := [0, 32, 64, 128, 256, 512, 1024, 2048]

/-- `A_CLIP` (R10, R96). UNVERIFIED, log 7. -/
def aClip : Nat := 32767

/-- `A_NEG`: the spec decides for the absolute value (R10, R96, R102). UNVERIFIED, log 6. -/
def aNeg : ANeg := .abs

/-- `TBL_U2A`, 256 entries of one byte, contents OPEN (R123). A free value: nothing constrains it. DESIGN CHOICE,
log 4. -/
opaque tblU2A : Byte → Byte

/-- `TBL_A2U`, 256 entries of one byte, contents OPEN (R123). A free value: nothing constrains it. DESIGN CHOICE,
log 4. -/
opaque tblA2U : Byte → Byte

/-- What stands on `dout` while a reserved selector stands on `op`: unspecified (R59), and a function of `op` and `din`
alone (R50). A free value: nothing constrains it. DESIGN CHOICE, log 21. -/
opaque unspecifiedDout : Selector → Word → Word

end Config
end Sys2Proof
end

