-- ==== Sys2Proof/Machine/Bits.lean ====
section
/-! DEFINITION. The spec's notation as functions (00_scope.md R12, R13, R14), the companded byte's three fields
(10_state.md R30), and the silent clip (R23). -/

namespace Sys2Proof.Machine

/-- `sint16`: a pattern read in two's complement (R14, R29). -/
def sint16 (w : Word) : Int := w.toInt

/-- `bits16`: the pattern of a sample (R14, R29). -/
def bits16 (x : Int) : Word := BitVec.ofInt 16 x

/-- `zext_16` of a byte (R14). -/
def zext16 (b : Byte) : Word := b.zeroExtend 16

/-- `msb(v)`: the `p` with `2^p ≤ v < 2^(p+1)`, for `v ≥ 1` (R13). How hardware finds it is free (R38, R176). -/
def msb (v : Nat) : Nat := v.log2

/-- `abs` on mathematical integers, so that `abs(-32768) = 32768` (R12). -/
def magnitude (x : Int) : Nat := x.natAbs

/-- A magnitude larger than the maximum is replaced by the maximum, silently (R17, R23). -/
def clip (limit mag : Nat) : Nat := min mag limit

/-- The plain byte as its fields `{sign:1, segment:3, mantissa:4}` (R30). -/
structure PlainByte where
  sign : BitVec 1
  segment : BitVec 3
  mantissa : BitVec 4
  deriving DecidableEq, Repr

/-- "byte = sign bit | segment<<4 | mantissa" (R30, R76). -/
def PlainByte.toByte (p : PlainByte) : Byte := p.sign ++ p.segment ++ p.mantissa

/-- `p[7]`, `p[6:4]`, `p[3:0]` (R30, R86, R111). -/
def PlainByte.ofByte (b : Byte) : PlainByte where
  sign := b.extractLsb' 7 1
  segment := b.extractLsb' 4 3
  mantissa := b.extractLsb' 0 4

/-- A plain byte from computed numbers, each narrowed to its field (R30). -/
def PlainByte.ofNumbers (signBit : Bool) (seg mant : Nat) : PlainByte where
  sign := BitVec.ofBool signBit
  segment := BitVec.ofNat 3 seg
  mantissa := BitVec.ofNat 4 mant

end Sys2Proof.Machine
end

