-- ==== Sys2Proof/Machine/Operands.lean ====
section
/-! DEFINITION. Every operand form (spec 30_encoding.md R54) and every result form (R58). -/

namespace Sys2Proof.Machine

/-- The operand of an encoder, `x = sint16(din[15:0])` (R54). -/
def sampleOperand (din : Word) : Int := sint16 din

/-- The operand of a decoder or a transcoder, `y = din[7:0]`; `din[15:8]` is ignored (R54; UNVERIFIED, log 10). -/
def byteOperand (din : Word) : Byte := lowByte din

/-- A byte result on `dout`: `dout[7:0] = b`, `dout[15:8] = 0` (R58; UNVERIFIED, log 14). -/
def byteResult (b : Byte) : Word := zext16 b

/-- A sample result on `dout`: two's complement on all 16 bits (R58; UNVERIFIED, log 14). -/
def sampleResult (v : Int) : Word := bits16 v

end Sys2Proof.Machine
end

