-- ==== Sys2Proof/Machine/State.lean ====
section
/-! DEFINITION. The state: CORE's own, which is the one-element type (spec 10_state.md R20), and the values standing
on its three ports (30_encoding.md R50; log 1). Faults: none (60_exceptions.md R150). Refusals, with who raises them. -/

namespace Sys2Proof.Machine

/-- CORE's own state: "A model's state type for CORE is the one-element type" (R20); no register (R21), program counter
(R22), flag (R23), control register (R24), other register file (R25) or hidden state (R26). -/
structure CoreState where
  deriving DecidableEq, Repr

/-- What CORE raises: nothing, ever (R150). The type is empty, so no step can fault. DESIGN CHOICE of form,
log 13. Safe. -/
inductive Fault : Type
  deriving DecidableEq, Repr

/-- Why a step gives no next state. -/
inductive Refusal where
  /-- Raised by an arm of `exec` that has no meaning yet. No arm is left so. Safe: nothing can be proved of the result. -/
  | notModelled (mnemonic : String)
  /-- Raised by `step` on selector 6 or 7: `dout` is unspecified and a model refuses (R59, R164). Safe: errs toward
  unprovable. -/
  | reservedSelector (op : Selector)
  deriving DecidableEq, Repr

/-- The machine at one moment: CORE's state and its three ports (R50). `op` and `din` are driven by the host; `dout`
follows them, in `present` as in `step`. The port fields are the model's own: no operation reads `dout`, none writes
`op` or `din`. -/
structure State where
  core : CoreState
  op : Selector
  din : Word
  dout : Word
  deriving DecidableEq, Repr

/-- After reset. CORE has nothing to reset (R32, R170). The spec gives no value for a port that nobody drives: `op` and
`din` are 0 (DESIGN CHOICE, log 2), and `dout` is then `Eval(0, 0)` (R170; DEDUCED, log 2). -/
def State.reset : State where
  core := {}
  op := 0#3
  din := 0x0000#16
  dout := 0x00FF#16

end Sys2Proof.Machine
end

