-- ==== Sys2Proof/Machine/Tables.lean ====
section
/-! DEFINITION. The two direct-conversion tables (spec 44_transcode.md). The tables the machine uses are OPEN (R123).
The spec's default contents (R124, R125), the number tables they were expanded from (R126) and the known variant
(R128) stand beside them under names of their own. PRESUMED: the spec marks all of these contents as general knowledge,
not compared with the standard or with the repository (log 5, log 19). -/

namespace Sys2Proof.Machine

/-- A pair of conversion tables, each `byte -> byte` (R36, R123). -/
structure Tables where
  u2a : Byte → Byte
  a2u : Byte → Byte

/-- The tables of this CORE: the two OPEN constants (R123). -/
def tables : Tables := ⟨Config.tblU2A, Config.tblA2U⟩

/-- The byte at row `y[7:4]`, column `y[3:0]`. -/
def byteAt (rows : List (List Nat)) (y : Byte) : Byte :=
  BitVec.ofNat 8 ((rows.getD (y.toNat / 16) []).getD (y.toNat % 16) 0)

/-- R124, row by row. -/
def defaultU2ARows : List (List Nat) :=
  [ [0x2A, 0x2B, 0x28, 0x29, 0x2E, 0x2F, 0x2C, 0x2D, 0x22, 0x23, 0x20, 0x21, 0x26, 0x27, 0x24, 0x25],
    [0x3A, 0x3B, 0x38, 0x39, 0x3E, 0x3F, 0x3C, 0x3D, 0x32, 0x33, 0x30, 0x31, 0x36, 0x37, 0x34, 0x35],
    [0x0A, 0x0B, 0x08, 0x09, 0x0E, 0x0F, 0x0C, 0x0D, 0x02, 0x03, 0x00, 0x01, 0x06, 0x07, 0x04, 0x05],
    [0x1B, 0x18, 0x19, 0x1E, 0x1F, 0x1C, 0x1D, 0x12, 0x13, 0x10, 0x11, 0x16, 0x17, 0x14, 0x15, 0x6A],
    [0x68, 0x69, 0x6E, 0x6F, 0x6C, 0x6D, 0x62, 0x63, 0x60, 0x61, 0x66, 0x67, 0x64, 0x65, 0x7A, 0x78],
    [0x7E, 0x7F, 0x7C, 0x7D, 0x72, 0x73, 0x70, 0x71, 0x76, 0x77, 0x74, 0x75, 0x4B, 0x49, 0x4F, 0x4D],
    [0x42, 0x43, 0x40, 0x41, 0x46, 0x47, 0x44, 0x45, 0x5A, 0x5B, 0x58, 0x59, 0x5E, 0x5F, 0x5C, 0x5D],
    [0x52, 0x52, 0x53, 0x53, 0x50, 0x50, 0x51, 0x51, 0x56, 0x56, 0x57, 0x57, 0x54, 0x54, 0x55, 0x55],
    [0xAA, 0xAB, 0xA8, 0xA9, 0xAE, 0xAF, 0xAC, 0xAD, 0xA2, 0xA3, 0xA0, 0xA1, 0xA6, 0xA7, 0xA4, 0xA5],
    [0xBA, 0xBB, 0xB8, 0xB9, 0xBE, 0xBF, 0xBC, 0xBD, 0xB2, 0xB3, 0xB0, 0xB1, 0xB6, 0xB7, 0xB4, 0xB5],
    [0x8A, 0x8B, 0x88, 0x89, 0x8E, 0x8F, 0x8C, 0x8D, 0x82, 0x83, 0x80, 0x81, 0x86, 0x87, 0x84, 0x85],
    [0x9B, 0x98, 0x99, 0x9E, 0x9F, 0x9C, 0x9D, 0x92, 0x93, 0x90, 0x91, 0x96, 0x97, 0x94, 0x95, 0xEA],
    [0xE8, 0xE9, 0xEE, 0xEF, 0xEC, 0xED, 0xE2, 0xE3, 0xE0, 0xE1, 0xE6, 0xE7, 0xE4, 0xE5, 0xFA, 0xF8],
    [0xFE, 0xFF, 0xFC, 0xFD, 0xF2, 0xF3, 0xF0, 0xF1, 0xF6, 0xF7, 0xF4, 0xF5, 0xCB, 0xC9, 0xCF, 0xCD],
    [0xC2, 0xC3, 0xC0, 0xC1, 0xC6, 0xC7, 0xC4, 0xC5, 0xDA, 0xDB, 0xD8, 0xD9, 0xDE, 0xDF, 0xDC, 0xDD],
    [0xD2, 0xD2, 0xD3, 0xD3, 0xD0, 0xD0, 0xD1, 0xD1, 0xD6, 0xD6, 0xD7, 0xD7, 0xD4, 0xD4, 0xD5, 0xD5] ]

/-- R125, row by row. -/
def defaultA2URows : List (List Nat) :=
  [ [0x2A, 0x2B, 0x28, 0x29, 0x2E, 0x2F, 0x2C, 0x2D, 0x22, 0x23, 0x20, 0x21, 0x26, 0x27, 0x24, 0x25],
    [0x39, 0x3A, 0x37, 0x38, 0x3D, 0x3E, 0x3B, 0x3C, 0x31, 0x32, 0x30, 0x30, 0x35, 0x36, 0x33, 0x34],
    [0x0A, 0x0B, 0x08, 0x09, 0x0E, 0x0F, 0x0C, 0x0D, 0x02, 0x03, 0x00, 0x01, 0x06, 0x07, 0x04, 0x05],
    [0x1A, 0x1B, 0x18, 0x19, 0x1E, 0x1F, 0x1C, 0x1D, 0x12, 0x13, 0x10, 0x11, 0x16, 0x17, 0x14, 0x15],
    [0x62, 0x63, 0x60, 0x61, 0x66, 0x67, 0x64, 0x65, 0x5D, 0x5D, 0x5C, 0x5C, 0x5F, 0x5F, 0x5E, 0x5E],
    [0x74, 0x76, 0x70, 0x72, 0x7C, 0x7E, 0x78, 0x7A, 0x6A, 0x6B, 0x68, 0x69, 0x6E, 0x6F, 0x6C, 0x6D],
    [0x48, 0x49, 0x46, 0x47, 0x4C, 0x4D, 0x4A, 0x4B, 0x40, 0x41, 0x3F, 0x3F, 0x44, 0x45, 0x42, 0x43],
    [0x56, 0x57, 0x54, 0x55, 0x5A, 0x5B, 0x58, 0x59, 0x4F, 0x4F, 0x4E, 0x4E, 0x52, 0x53, 0x50, 0x51],
    [0xAA, 0xAB, 0xA8, 0xA9, 0xAE, 0xAF, 0xAC, 0xAD, 0xA2, 0xA3, 0xA0, 0xA1, 0xA6, 0xA7, 0xA4, 0xA5],
    [0xB9, 0xBA, 0xB7, 0xB8, 0xBD, 0xBE, 0xBB, 0xBC, 0xB1, 0xB2, 0xB0, 0xB0, 0xB5, 0xB6, 0xB3, 0xB4],
    [0x8A, 0x8B, 0x88, 0x89, 0x8E, 0x8F, 0x8C, 0x8D, 0x82, 0x83, 0x80, 0x81, 0x86, 0x87, 0x84, 0x85],
    [0x9A, 0x9B, 0x98, 0x99, 0x9E, 0x9F, 0x9C, 0x9D, 0x92, 0x93, 0x90, 0x91, 0x96, 0x97, 0x94, 0x95],
    [0xE2, 0xE3, 0xE0, 0xE1, 0xE6, 0xE7, 0xE4, 0xE5, 0xDD, 0xDD, 0xDC, 0xDC, 0xDF, 0xDF, 0xDE, 0xDE],
    [0xF4, 0xF6, 0xF0, 0xF2, 0xFC, 0xFE, 0xF8, 0xFA, 0xEA, 0xEB, 0xE8, 0xE9, 0xEE, 0xEF, 0xEC, 0xED],
    [0xC8, 0xC9, 0xC6, 0xC7, 0xCC, 0xCD, 0xCA, 0xCB, 0xC0, 0xC1, 0xBF, 0xBF, 0xC4, 0xC5, 0xC2, 0xC3],
    [0xD6, 0xD7, 0xD4, 0xD5, 0xDA, 0xDB, 0xD8, 0xD9, 0xCF, 0xCF, 0xCE, 0xCE, 0xD2, 0xD3, 0xD0, 0xD1] ]

/-- The default instantiation of the tables (R124, R125). -/
def Tables.default : Tables := ⟨byteAt defaultU2ARows, byteAt defaultA2URows⟩

/-- `U2A_NUM` (R126), sixteen numbers a row: the A-law number 1 to 128 of a μ-law number 0 to 127. -/
def u2aNumRows : List (List Nat) :=
  [ [1, 1, 2, 2, 3, 3, 4, 4, 5, 5, 6, 6, 7, 7, 8, 8],
    [9, 10, 11, 12, 13, 14, 15, 16, 17, 18, 19, 20, 21, 22, 23, 24],
    [25, 27, 29, 31, 33, 34, 35, 36, 37, 38, 39, 40, 41, 42, 43, 44],
    [46, 48, 49, 50, 51, 52, 53, 54, 55, 56, 57, 58, 59, 60, 61, 62],
    [64, 65, 66, 67, 68, 69, 70, 71, 72, 73, 74, 75, 76, 77, 78, 79],
    [81, 82, 83, 84, 85, 86, 87, 88, 89, 90, 91, 92, 93, 94, 95, 96],
    [97, 98, 99, 100, 101, 102, 103, 104, 105, 106, 107, 108, 109, 110, 111, 112],
    [113, 114, 115, 116, 117, 118, 119, 120, 121, 122, 123, 124, 125, 126, 127, 128] ]

/-- `A2U_NUM` (R126), sixteen numbers a row: the μ-law number of an A-law number less one. -/
def a2uNumRows : List (List Nat) :=
  [ [1, 3, 5, 7, 9, 11, 13, 15, 16, 17, 18, 19, 20, 21, 22, 23],
    [24, 25, 26, 27, 28, 29, 30, 31, 32, 32, 33, 33, 34, 34, 35, 35],
    [36, 37, 38, 39, 40, 41, 42, 43, 44, 45, 46, 47, 48, 48, 49, 49],
    [50, 51, 52, 53, 54, 55, 56, 57, 58, 59, 60, 61, 62, 63, 64, 64],
    [65, 66, 67, 68, 69, 70, 71, 72, 73, 74, 75, 76, 77, 78, 79, 79],
    [80, 81, 82, 83, 84, 85, 86, 87, 88, 89, 90, 91, 92, 93, 94, 95],
    [96, 97, 98, 99, 100, 101, 102, 103, 104, 105, 106, 107, 108, 109, 110, 111],
    [112, 113, 114, 115, 116, 117, 118, 119, 120, 121, 122, 123, 124, 125, 126, 127] ]

/-- `U2A_NUM` as a list of 128 numbers. -/
def u2aNum : List Nat := u2aNumRows.flatten

/-- `A2U_NUM` as a list of 128 numbers. -/
def a2uNum : List Nat := a2uNumRows.flatten

/-- The expansion of a pair of number tables to wire bytes, sign kept (R126). -/
def Tables.ofNumbers (u2a a2u : List Nat) : Tables where
  u2a y :=
    if y.getLsbD 7 then 0xD5#8 ^^^ BitVec.ofNat 8 (u2a.getD (0xFF#8 ^^^ y).toNat 0 - 1)
    else 0x55#8 ^^^ BitVec.ofNat 8 (u2a.getD (0x7F#8 ^^^ y).toNat 0 - 1)
  a2u y :=
    if y.getLsbD 7 then 0xFF#8 ^^^ BitVec.ofNat 8 (a2u.getD (y ^^^ 0xD5#8).toNat 0)
    else 0x7F#8 ^^^ BitVec.ofNat 8 (a2u.getD (y ^^^ 0x55#8).toNat 0)

/-- The "corrected" variant some published copies carry: `U2A_NUM[80] = 80`, `A2U_NUM[79] = 80` (R128). -/
def Tables.variant : Tables := Tables.ofNumbers (u2aNum.set 80 80) (a2uNum.set 79 80)

end Sys2Proof.Machine
end

