-- ==== Sys2Proof/Machine/Ops.lean ====
section
/-! DEFINITION. The named operations over the state and the tables: what stands on the input ports as a
command (spec 30_encoding.md R53), the one way an operation writes its result, and `TblRead` (00_scope.md R15), the only
access primitive CORE has. There is no register, no memory, no exception entry and no return from one to write here:
"CORE has no register, no memory, no exception and no program counter" (R15, R155, R156). What the host may do to the
ports stands in `Eval.lean`, since `dout` follows at once. -/

namespace Sys2Proof.Machine

/-- The command word standing on the input ports (R53). -/
def State.command (s : State) : CommandWord := s.op ++ s.din

/-- An operation's one effect: its result on `dout` (R20, R55). -/
def State.setDout (s : State) (d : Word) : State := { s with dout := d }

/-- `TblRead(T, i)`: a pure, total read (R15, R37). -/
def tblRead (T : Byte → Byte) (i : Byte) : Byte := T i

/-- An operation completes with result `d` (R164: a next state and a result). -/
def complete (d : Word) (s : State) : Host.Outcome State Fault Refusal := .next (s.setDout d)

end Sys2Proof.Machine
end

