-- ==== Sys2Proof/Machine/Alaw.lean ====
section
/-! DEFINITION. The A-law encoder and decoder (spec 42_alaw_encode.md, 43_alaw_decode.md), one function for each step
rule, on unbounded integers as the pseudocode has them (00_scope.md R12). -/

namespace Sys2Proof.Machine

/-- The sign bit: 1 for a sample that is not negative (R31, R96). -/
def aSign (x : Int) : Bool := decide (0 ≤ x)

/-- The magnitude before the clamp, under either reading of a negative sample (R96, R102). -/
def aMagnitude : ANeg → Int → Nat
  | .abs, x => magnitude x
  | .onesComplement, x => if x < 0 then (-x - 1).toNat else x.toNat

/-- The clamped and scaled magnitude `v` (R96, R97). -/
def aScaled (neg : ANeg) (x : Int) : Nat := clip Config.aClip (aMagnitude neg x) >>> Config.aShiftIn

/-- `seg = 0 if v < 32 else msb(v) - 4` (R97). -/
def aSegment (v : Nat) : Nat := if v < 32 then 0 else msb v - 4

/-- `(v >> 1) & 0xF` in segments 0 and 1, `(v >> seg) & 0xF` above (R98). -/
def aMantissa (v : Nat) : Nat :=
  if aSegment v < 2 then (v >>> 1) &&& 0xF else (v >>> aSegment v) &&& 0xF

/-- The A-law mask, plain to wire and back (R30, R60, R99, R111). -/
def aMask (b : Byte) : Byte := b ^^^ Config.aXor

/-- The plain A-law byte of a sample (R99). -/
def aPlain (neg : ANeg) (x : Int) : PlainByte :=
  let v := aScaled neg x
  PlainByte.ofNumbers (aSign x) (aSegment v) (aMantissa v)

/-- The encoder with `A_NEG` left as an argument (R102). -/
def lin2alawWith (neg : ANeg) (x : Int) : Byte := aMask (aPlain neg x).toByte

/-- `LIN2ALAW(x)` (R95). -/
def lin2alaw (x : Int) : Byte := lin2alawWith Config.aNeg x

/-- The magnitude an A-law byte stands for (R112; UNVERIFIED, log 8). -/
def aRepresentative (seg mant : Nat) : Nat :=
  if seg = 0 then (mant <<< 4) + 8
  else if seg = 1 then (mant <<< 4) + 264
  else ((mant <<< 4) + 264) <<< (seg - 1)

/-- `ALAW2LIN(y)` (R110 to R113). -/
def alaw2lin (y : Byte) : Int :=
  let p := PlainByte.ofByte (aMask y)
  let t : Int := aRepresentative p.segment.toNat p.mantissa.toNat
  if p.sign = 1#1 then t else -t

/-- Meaning of `LIN2ALAW` (R95). -/
def execLin2Alaw (x : Word) (s : State) : Host.Outcome State Fault Refusal :=
  complete (byteResult (lin2alaw (sampleOperand x))) s

/-- Meaning of `ALAW2LIN` (R110); the upper operand bits play no part (R54). -/
def execAlaw2Lin (_ignored y : Byte) (s : State) : Host.Outcome State Fault Refusal :=
  complete (sampleResult (alaw2lin y)) s

end Sys2Proof.Machine
end

