-- ==== Sys2Proof/Machine/Mulaw.lean ====
section
/-! DEFINITION. The μ-law encoder and decoder (spec 40_mulaw_encode.md, 41_mulaw_decode.md), one function for each step
rule, on unbounded integers as the pseudocode has them (00_scope.md R12). -/

namespace Sys2Proof.Machine

/-- The sign bit: 1 for a negative sample (R31, R71). -/
def muSign (x : Int) : Bool := decide (x < 0)

/-- The clipped magnitude (R71, R72), for a clip constant. -/
def muMagnitude (limit : Nat) (x : Int) : Nat := clip limit (magnitude x)

/-- The biased magnitude `b` (R73). -/
def muBiased (mag : Nat) : Nat := mag + Config.muBias

/-- `seg = msb(b) - 7` (R74). -/
def muSegment (b : Nat) : Nat := msb b - 7

/-- `mant = (b >> (seg + 3)) & 0xF` (R75). -/
def muMantissa (b : Nat) : Nat := (b >>> (muSegment b + 3)) &&& 0xF

/-- The μ-law mask, plain to wire and back (R30, R57, R76, R86). -/
def muMask (b : Byte) : Byte := b ^^^ Config.muInvert

/-- The plain μ-law byte of a sample (R76), for a clip constant. -/
def muPlain (limit : Nat) (x : Int) : PlainByte :=
  let b := muBiased (muMagnitude limit x)
  PlainByte.ofNumbers (muSign x) (muSegment b) (muMantissa b)

/-- The encoder with its clip constant left as an argument (R72: any constant from 31612 to 32635 gives the same
function). -/
def lin2mulawWith (limit : Nat) (x : Int) : Byte := muMask (muPlain limit x).toByte

/-- `LIN2MULAW(x)` (R70). -/
def lin2mulaw (x : Int) : Byte := lin2mulawWith Config.muClip x

/-- The 14-bit formulation of the same encoder (R79): clip 8159 and bias 33 on the magnitude shifted right by 2. -/
def lin2mulaw14 (x : Int) : Byte :=
  let b := clip 8159 (magnitude x >>> 2) + 33
  let p :=
    if 0x1FFF < b then PlainByte.ofNumbers (muSign x) 7 15
    else PlainByte.ofNumbers (muSign x) (msb b - 5) ((b >>> (msb b - 5 + 1)) &&& 0xF)
  muMask p.toByte

/-- The magnitude a μ-law byte stands for: `(((mant << 3) + 132) << seg) - 132` (R87). -/
def muRepresentative (seg mant : Nat) : Int :=
  ((((mant <<< 3) + Config.muBias) <<< seg : Nat) : Int) - (Config.muBias : Int)

/-- `MULAW2LIN(y)` (R85 to R88). -/
def mulaw2lin (y : Byte) : Int :=
  let p := PlainByte.ofByte (muMask y)
  let t := muRepresentative p.segment.toNat p.mantissa.toNat
  if p.sign = 1#1 then -t else t

/-- Meaning of `LIN2MULAW` (R70). -/
def execLin2Mulaw (x : Word) (s : State) : Host.Outcome State Fault Refusal :=
  complete (byteResult (lin2mulaw (sampleOperand x))) s

/-- Meaning of `MULAW2LIN` (R85); the upper operand bits play no part (R54). -/
def execMulaw2Lin (_ignored y : Byte) (s : State) : Host.Outcome State Fault Refusal :=
  complete (sampleResult (mulaw2lin y)) s

end Sys2Proof.Machine
end

