-- ==== Sys2Proof/Machine/Transcode.lean ====
section
/-! DEFINITION. The direct transcoder (spec 44_transcode.md): a table lookup and only that (R120), never the composition
of a decoder and an encoder. -/

namespace Sys2Proof.Machine

/-- `ULAW2ALAW(y) = TblRead(TBL_U2A, y)`: wire byte in, wire byte out (R121). -/
def ulaw2alaw (T : Tables) (y : Byte) : Byte := tblRead T.u2a y

/-- `ALAW2ULAW(y) = TblRead(TBL_A2U, y)` (R122). -/
def alaw2ulaw (T : Tables) (y : Byte) : Byte := tblRead T.a2u y

/-- Meaning of `ULAW2ALAW` with this CORE's tables (R121); the upper operand bits play no part (R54). -/
def execUlaw2Alaw (_ignored y : Byte) (s : State) : Host.Outcome State Fault Refusal :=
  complete (byteResult (ulaw2alaw tables y)) s

/-- Meaning of `ALAW2ULAW` with this CORE's tables (R122); the upper operand bits play no part (R54). -/
def execAlaw2Ulaw (_ignored y : Byte) (s : State) : Host.Outcome State Fault Refusal :=
  complete (byteResult (alaw2ulaw tables y)) s

end Sys2Proof.Machine
end

