-- ==== Sys2Proof/Machine/Dispatch.lean ====
section
/-! DEFINITION. One arm for each operation (spec 30_encoding.md R51). -/

namespace Sys2Proof.Machine

def exec (i : Instr) (s : State) : Host.Outcome State Fault Refusal :=
  match i with
  | .lin2mulaw x => Sys2Proof.Machine.execLin2Mulaw x s
  | .mulaw2lin ignored y => Sys2Proof.Machine.execMulaw2Lin ignored y s
  | .lin2alaw x => Sys2Proof.Machine.execLin2Alaw x s
  | .alaw2lin ignored y => Sys2Proof.Machine.execAlaw2Lin ignored y s
  | .ulaw2alaw ignored y => Sys2Proof.Machine.execUlaw2Alaw ignored y s
  | .alaw2ulaw ignored y => Sys2Proof.Machine.execAlaw2Ulaw ignored y s

end Sys2Proof.Machine
end

