-- ==== Sys2Proof/Machine/Eval.lean ====
section
/-! DEFINITION. `Eval(op, din)`, the whole behaviour of CORE as the spec writes it, in one function on port values
(spec 30_encoding.md R55), for any pair of tables. It is the specification the step is held against, and what the
combinational port `dout` carries as soon as the host drives the other two (R50, R170). -/

namespace Sys2Proof.Machine

/-- R55, case by case; no value for a reserved selector (R59). -/
def evalWith (T : Tables) (op : Selector) (din : Word) : Option Word :=
  match op.toNat with
  | 0 => some (zext16 (lin2mulaw (sint16 din)))
  | 1 => some (bits16 (mulaw2lin (byteOperand din)))
  | 2 => some (zext16 (lin2alaw (sint16 din)))
  | 3 => some (bits16 (alaw2lin (byteOperand din)))
  | 4 => some (zext16 (ulaw2alaw T (byteOperand din)))
  | 5 => some (zext16 (alaw2ulaw T (byteOperand din)))
  | _ => none

/-- `Eval(op, din)` with this CORE's tables (R55). -/
def eval (op : Selector) (din : Word) : Option Word := evalWith tables op din

/-- What stands on `dout`, "a function of `op` and `din` alone" (R50): `Eval(op, din)`, and for a reserved selector the
free value (R59; DESIGN CHOICE, log 21). -/
def doutOf (op : Selector) (din : Word) : Word := (eval op din).getD (Config.unspecifiedDout op din)

/-- The host drives a command word onto the input ports, and `dout` follows at once (R50, R53, R170). CORE's state is
untouched. -/
def State.present (s : State) (c : CommandWord) : State :=
  { s with op := selectorOf c, din := dinOf c, dout := doutOf (selectorOf c) (dinOf c) }

/-- The port constraint of R50: `dout` is what the two input ports make it. -/
def State.PortsAgree (s : State) : Prop := s.dout = doutOf s.op s.din

end Sys2Proof.Machine
end

