-- ==== Sys2Proof/Machine/Step.lean ====
section
/-! DEFINITION. One step is one evaluation of CORE on what stands on its input ports (spec 30_encoding.md R50, R55;
60_exceptions.md R164). There is nothing to fetch and nothing to advance (10_state.md R22): the next command is the
host's to present (log 3). -/

namespace Sys2Proof.Machine

/-- One evaluation: a defined selector runs its operation, a reserved one is refused by name (R59, R164). -/
def step (s : State) : Host.Outcome State Fault Refusal :=
  match decode s.command with
  | .instr i => exec i s
  | .reservedSelector op => .refused (.reservedSelector op)

/-- The word of an opcode-table row put where the next step reads its command: on the input ports, `dout` following
them as the port does (R50; log 3, log 12). -/
def State.withFetchWord (s : State) (nbits w : Nat) : State := s.present (commandOfTableWord nbits w)

end Sys2Proof.Machine
end

