-- ==== Sys2Proof/Machine/Program.lean ====
section
/-! DEFINITION. A program: "a finite list of operations chosen by the host; it ends when the list is exhausted, and its
end state is the list of results" (spec 70_reset_and_hazards.md R177). The list is the host's, not CORE's state. -/

namespace Sys2Proof.Machine

/-- One transaction: the host presents a command word and CORE evaluates it (R16, R50). -/
def transact (s : State) (c : CommandWord) : Host.Outcome State Fault Refusal := step (s.present c)

/-- The host presents the commands one after another and reads `dout` after each; a refused command ends the run with
its refusal (R177; DESIGN CHOICE, log 16). -/
def runProgram : List CommandWord → State → Host.Outcome (State × List Word) Fault Refusal
  | [], s => .next (s, [])
  | c :: cs, s =>
    match transact s c with
    | .next t =>
      match runProgram cs t with
      | .next (u, ds) => .next (u, t.dout :: ds)
      | .fault r => .fault r
      | .refused r => .refused r
    | .fault r => .fault r
    | .refused r => .refused r

end Sys2Proof.Machine
end

