-- ==== Sys2Proof/Safety.lean ====
section
/-! DEFINITION. What counts as safe use of CORE: a defined selector on every command (spec 70_reset_and_hazards.md R172),
so that no step is refused, and bytes given only to operations of their own law (R174). -/

namespace Sys2Proof.Machine

/-- The step answers a next state. -/
def SafeStep (s : State) : Prop := ∃ t, step s = .next t

/-- A program all of whose commands have a defined selector (R172). -/
def SafeProgram (cs : List CommandWord) : Prop := ∀ c ∈ cs, wfCommand c = true

/-- The result of one operation may be given to another: their formats are the same, so laws match (R174). -/
def mayFeed (producer consumer : Mnemonic) : Bool :=
  decide (producer.resultFormat = consumer.operandFormat)

end Sys2Proof.Machine
end

