-- ==== Sys2Proof/Certificates/Slice0/Obligations.lean ====
section
/-! DEFINITION. The statements for the provers. Each docstring names the rule of spec/ it comes from. Where a rule is
one the spec marks as its own derivation or decision, the docstring says so. Numbers are written out (div, mod, powers
of two), not through the model's own step functions, wherever a statement says what an operation computes. -/

open Sys2Proof Sys2Proof.Machine

/-! ### Encoding and decoding -/

/-- One word of each operation and of each reserved selector, written out from the table of R56 (field `op`, then the
ignored bits, then the byte). The selector values are the spec's decision D2 (log 17). -/
def Obligations.TableWordsDecodeToTheirOperations : Prop :=
  decode 0b0000000001111101000#19 = .instr (.lin2mulaw 0x03E8#16) ∧
  decode 0b0011010101111001110#19 = .instr (.mulaw2lin 0xAB#8 0xCE#8) ∧
  decode 0b0101000000000000000#19 = .instr (.lin2alaw 0x8000#16) ∧
  decode 0b0111111111111010101#19 = .instr (.alaw2lin 0xFF#8 0xD5#8) ∧
  decode 0b1000000000011001110#19 = .instr (.ulaw2alaw 0x00#8 0xCE#8) ∧
  decode 0b1010000000111101010#19 = .instr (.alaw2ulaw 0x01#8 0xEA#8) ∧
  decode 0b1101111111111111111#19 = .reservedSelector 6#3 ∧
  decode 0b1110000000000000000#19 = .reservedSelector 7#3

/-- R56 (the spec's decisions D2, D3; log 17): under each row's mask a command word equals the row's match exactly when
it decodes to an operation of that row, so bits 15:0 take no part; the reserved rows likewise. -/
def Obligations.MaskAndMatchSelectTheOperation : Prop :=
  ∀ c : CommandWord,
    (∀ r ∈ opcodeMap, c &&& r.mask = r.pattern ↔ ∃ i, decode c = .instr i ∧ i.mnemonic = r.mnemonic) ∧
    (c &&& 0x70000#19 = 0x60000#19 ↔ decode c = .reservedSelector 6#3) ∧
    (c &&& 0x70000#19 = 0x70000#19 ↔ decode c = .reservedSelector 7#3)

/-- Decoding an encoded operation gives it back, for every operation and every operand, ignored bits included. -/
def Obligations.DecodeOfEncodeIsTheOperation : Prop :=
  ∀ i : Instr, decode (encode i) = .instr i

/-- Encoding what a command word decodes to gives the command word back: every word has one meaning. -/
def Obligations.EncodeOfDecodeIsTheCommandWord : Prop :=
  ∀ (c : CommandWord) (i : Instr), decode c = .instr i → encode i = c

/-- R62 (the spec's decision D22): a well-formed written operation assembles to the command word of its mnemonic on its
operand, a decimal sample standing for the pattern that reads back as it, and an ill-formed one to nothing. Two clauses
are the model's choice: the ignored byte is 0 where a byte is written with two digits (DESIGN CHOICE, log 17), and which
written operations are ill-formed and assemble to nothing (DEDUCED, log 20). -/
def Obligations.WrittenOperationsAssembleToTheirCommand : Prop :=
  (∀ x : Int, -32768 ≤ x → x ≤ 32767 → ∃ w : Word, w.toInt = x ∧
    (Written.assemble ⟨.lin2mulaw, .decimal x⟩).map decode = some (.instr (.lin2mulaw w)) ∧
    (Written.assemble ⟨.lin2alaw, .decimal x⟩).map decode = some (.instr (.lin2alaw w))) ∧
  (∀ w : Word,
    (Written.assemble ⟨.lin2mulaw, .hex4 w.toNat⟩).map decode = some (.instr (.lin2mulaw w)) ∧
    (Written.assemble ⟨.lin2alaw, .hex4 w.toNat⟩).map decode = some (.instr (.lin2alaw w))) ∧
  (∀ y : Byte,
    (Written.assemble ⟨.mulaw2lin, .hex2 y.toNat⟩).map decode = some (.instr (.mulaw2lin 0 y)) ∧
    (Written.assemble ⟨.alaw2lin, .hex2 y.toNat⟩).map decode = some (.instr (.alaw2lin 0 y)) ∧
    (Written.assemble ⟨.ulaw2alaw, .hex2 y.toNat⟩).map decode = some (.instr (.ulaw2alaw 0 y)) ∧
    (Written.assemble ⟨.alaw2ulaw, .hex2 y.toNat⟩).map decode = some (.instr (.alaw2ulaw 0 y))) ∧
  (∀ o : Written, o.wf = false → o.assemble = none)

/-! ### The step -/

/-- A step runs the operation that the command word on the input ports decodes to. -/
def Obligations.StepRunsTheDecodedOperation : Prop :=
  ∀ (s : State) (i : Instr), decode (s.op ++ s.din) = .instr i → step s = exec i s

/-- The word the host presents is the word the next step decodes and runs, and CORE's state is not changed by presenting
it. Its result stands on `dout` at once (R50, R170; the spec's decisions D1, D15): the step leaves the state as
presenting it did. That a command is presented to the ports before a step is the model's choice (log 3). -/
def Obligations.PresentedCommandIsRunByTheNextStep : Prop :=
  ∀ (s : State) (c : CommandWord),
    (s.present c).op ++ (s.present c).din = c ∧ (s.present c).core = s.core ∧
    ∀ i, decode c = .instr i →
      step (s.present c) = exec i (s.present c) ∧ exec i (s.present c) = .next (s.present c)

/-- R59, R164, R172 (the spec marks R164 as derived, R59 and R172 as its decisions D6, D15; log 11): a step with a
defined selector is safe and changes `dout` alone; one with a reserved selector is refused, with no value and no fault. -/
def Obligations.DefinedSelectorsAnswerAndReservedAreRefused : Prop :=
  ∀ s : State,
    (s.op.toNat < 6 → ∃ d, step s = .next { s with dout := d }) ∧
    (6 ≤ s.op.toNat → step s = .refused (.reservedSelector s.op)) ∧
    (SafeStep s ↔ s.op.toNat < 6)

/-- R150: no operation, on any operand and in any state, ends in anything but a next state, and no step is a fault. -/
def Obligations.CoreRaisesNoException : Prop :=
  (∀ (i : Instr) (s : State), ∃ t, exec i s = .next t) ∧ (∀ (s : State) (f : Fault), step s ≠ .fault f)

/-- R20, and the frame of all six operations: the result is a function of the operation and its operand (and of the
constant tables) alone, whatever the state, and nothing but `dout` is written; CORE's own state type has one element. -/
def Obligations.ResultDependsOnTheOperationAlone : Prop :=
  (∀ i : Instr, ∃ d : Word, ∀ s : State, exec i s = .next { s with dout := d }) ∧
  (∀ c c' : CoreState, c = c')

/-- R55 (the spec marks it derived): the step is `Eval(op, din)` on `dout`, in every state and on every port value, and
a refusal where `Eval` has no value. -/
def Obligations.StepIsEval : Prop :=
  ∀ s : State, step s =
    match eval s.op s.din with
    | some d => .next { s with dout := d }
    | none => .refused (.reservedSelector s.op)

/-- R54 (the spec's decision D4; log 10): for the four byte operations two states that agree on `op` and on `din[7:0]`
get the same result, whatever stands on `din[15:8]`. -/
def Obligations.UpperOperandBitsOfByteOperationsAreIgnored : Prop :=
  ∀ s t : State, s.op = t.op → (s.op = 1 ∨ s.op = 3 ∨ s.op = 4 ∨ s.op = 5) →
    s.din.extractLsb' 0 8 = t.din.extractLsb' 0 8 →
    ∃ d : Word, step s = .next { s with dout := d } ∧ step t = .next { t with dout := d }

/-- R58 (the spec's decision D5; log 14): an encoder's or transcoder's result is a byte with `dout[15:8] = 0`. -/
def Obligations.ByteResultsAreZeroExtended : Prop :=
  ∀ s : State, (s.op = 0 ∨ s.op = 2 ∨ s.op = 4 ∨ s.op = 5) →
    ∃ b : Byte, step s = .next { s with dout := 0#8 ++ b }

/-- Reset: CORE has nothing to reset (R32, R170). The port values are the model's choice (log 2): `op` and `din` 0, and
`dout` the value R170 then demands. -/
def Obligations.ResetPortsAgree : Prop :=
  State.reset = { core := {}, op := 0, din := 0, dout := 0x00FF#16 } ∧ State.reset.PortsAgree

/-- R50, R170 (decisions D1, D15 of the spec): `dout` is what the two input ports make it, in every state that the host's
presenting a command or a step leaves, from whatever state, and is `Eval(op, din)` wherever that has a value; a state in
which it is so is not changed by a step: evaluating again changes nothing. For a reserved selector the value is free
(DESIGN CHOICE, log 21). -/
def Obligations.StepsKeepThePortsInAgreement : Prop :=
  (∀ (s : State) (d : Word), s.PortsAgree → eval s.op s.din = some d → s.dout = d) ∧
  (∀ (s : State) (c : CommandWord), (s.present c).PortsAgree) ∧
  ∀ s t : State, step s = .next t → t.PortsAgree ∧ (s.PortsAgree → t = s)

/-- Derived from R173 (two operations back to back), R45 and R177 (a list of operations, the spec's decision D17): there
is one result for each command word, and in every list of commands with defined selectors, in any order and from any
state, each command gets the result it gets alone. These rules name no presenting and no runner: `present` (log 3) and
`runProgram` (log 16) are the model's choice (DESIGN CHOICE). -/
def Obligations.EachOperationOfASequenceGetsItsOwnResult : Prop :=
  ∃ f : CommandWord → Word,
    (∀ (s : State) (c : CommandWord), wfCommand c = true →
      step (s.present c) = .next { s.present c with dout := f c }) ∧
    ∀ (cs : List CommandWord) (s : State), SafeProgram cs →
      ∃ t : State, runProgram cs s = .next (t, cs.map f) ∧ t.core = s.core

/-! ### μ-law -/

/-- R70, whole: for every sample the steps of the encoder in plain arithmetic (sign, clip, bias, segment from the
position `p` of the leading one, mantissa, complement), the result zero-extended, nothing else changed, and the
encoding. The clip, the magnitude of -32768 and the shifts are the spec's decisions D7, D8, D9 (log 7, log 9). -/
def Obligations.MulawEncoderFollowsItsSteps : Prop :=
  ∀ (x : Word) (s : State),
    decode (0b000#3 ++ x) = .instr (.lin2mulaw x) ∧
    ∃ p : Nat, 7 ≤ p ∧ p ≤ 14 ∧
      2 ^ p ≤ min x.toInt.natAbs 32635 + 132 ∧ min x.toInt.natAbs 32635 + 132 < 2 ^ (p + 1) ∧
      exec (.lin2mulaw x) s = .next { s with dout := (BitVec.ofNat 16 <|
        ((if x.toInt < 0 then 128 else 0) + 16 * (p - 7) +
          (min x.toInt.natAbs 32635 + 132) / 2 ^ (p - 7 + 3) % 16) ^^^ 0xFF) }

/-- R77 (the spec marks it derived): the decision intervals. A sample gets segment `seg` and mantissa `mant` exactly
when its clipped magnitude lies in the interval of that pair. -/
def Obligations.MulawDecisionIntervals : Prop :=
  ∀ (x : Word) (s : State) (seg mant : Nat), seg < 8 → mant < 16 →
    (exec (.lin2mulaw x) s = .next { s with dout := (BitVec.ofNat 16 <|
        ((if x.toInt < 0 then 128 else 0) + 16 * seg + mant) ^^^ 0xFF) } ↔
      (16 + mant : Int) * 2 ^ (seg + 3) - 132 ≤ min x.toInt.natAbs 32635 ∧
      (min x.toInt.natAbs 32635 : Int) ≤ (17 + mant) * 2 ^ (seg + 3) - 133)

/-- R74 (derived in the spec, and its decisions D9, D19): the search by leading one finds the least `i` with
`b <= MU_SEG_END[i]`, for the biased magnitude of every sample. -/
def Obligations.MulawSegmentIsTheFirstTableEnd : Prop :=
  ∀ (x : Word) (i : Nat), i < 8 →
    let b := muBiased (muMagnitude 32635 x.toInt)
    (muSegment b = i ↔ b ≤ Config.muSegEnd.getD i 0 ∧ ∀ j < i, Config.muSegEnd.getD j 0 < b)

/-- R72 (the spec's decision D7 and its own derivation; log 9): any clip constant from 31612 to 32635 gives the
function the machine computes. -/
def Obligations.MulawClipConstantHasNoFreedomLeft : Prop :=
  ∀ limit : Nat, 31612 ≤ limit → limit ≤ 32635 → ∀ (x : Word) (s : State),
    exec (.lin2mulaw x) s = .next { s with dout := 0#8 ++ lin2mulawWith limit x.toInt }

/-- R78 (the spec marks it derived): the encoder is onto; `-1`, `-2`, `-3` give 0x7F and 0 gives 0xFF; wire bit 7 tells
`x >= 0` and depends on nothing else. -/
def Obligations.MulawEncoderIsOntoAndKeepsTheSign : Prop :=
  (∀ y : Byte, ∃ x : Word, ∀ s : State, exec (.lin2mulaw x) s = .next { s with dout := 0#8 ++ y }) ∧
  (∀ s : State, exec (.lin2mulaw 0) s = .next { s with dout := 0x00FF#16 } ∧
    ∀ x : Word, (x.toInt = -1 ∨ x.toInt = -2 ∨ x.toInt = -3) →
      exec (.lin2mulaw x) s = .next { s with dout := 0x007F#16 }) ∧
  (∀ (x : Word) (s t : State), exec (.lin2mulaw x) s = .next t → (t.dout.getLsbD 7 = true ↔ 0 ≤ x.toInt))

/-- R79 (the spec marks the equality derived): the 14-bit formulation, with clip 8159 and bias 33, computes what the
machine computes, on all operands. -/
def Obligations.FourteenBitFormulationIsTheMulawEncoder : Prop :=
  ∀ (x : Word) (s : State), exec (.lin2mulaw x) s = .next { s with dout := 0#8 ++ lin2mulaw14 x.toInt }

/-- R85, whole: complement, fields, `(((mant << 3) + 132) << seg) - 132`, sign; two's complement on `dout`, ignored
bits without effect, nothing else changed, and the encoding. -/
def Obligations.MulawDecoderFollowsItsSteps : Prop :=
  ∀ (ignored y : Byte) (s : State),
    decode (0b001#3 ++ (ignored ++ y)) = .instr (.mulaw2lin ignored y) ∧
    let p := y.toNat ^^^ 0xFF
    let t : Int := (p % 16 * 8 + 132) * 2 ^ (p / 16 % 8) - 132
    exec (.mulaw2lin ignored y) s =
      .next { s with dout := BitVec.ofInt 16 (if p / 128 = 1 then -t else t) }

/-- R89 (its count is the source's; the spec marks the rest derived): two μ-law bytes decode to the same sample only if
they are equal or are 0x7F and 0xFF, so there are exactly 255 results. -/
def Obligations.MulawDecoderHas255Results : Prop :=
  (∀ (ign ign' y z : Byte) (s t u v : State),
    exec (.mulaw2lin ign y) s = .next t → exec (.mulaw2lin ign' z) u = .next v →
    (t.dout = v.dout ↔ y = z ∨ (y = 0x7F#8 ∧ z = 0xFF#8) ∨ (y = 0xFF#8 ∧ z = 0x7F#8))) ∧
  (∀ (ign : Byte) (s : State), exec (.mulaw2lin ign 0x7F#8) s = .next { s with dout := 0 }) ∧
  {d : Word | ∃ ign y s t, exec (.mulaw2lin ign y) s = .next t ∧ t.dout = d}.ncard = 255

/-! ### A-law -/

/-- R95, whole: for every sample the steps of the encoder in plain arithmetic (sign, clamp, scaling by 8, segment,
mantissa, mask), the result zero-extended, nothing else changed, and the encoding. The absolute value of a negative
sample and the clamp are the spec's decision D11, the scaling and shifts D10, D12 (log 6, log 7, log 9). -/
def Obligations.AlawEncoderFollowsItsSteps : Prop :=
  ∀ (x : Word) (s : State),
    decode (0b010#3 ++ x) = .instr (.lin2alaw x) ∧
    let v := min x.toInt.natAbs 32767 / 8
    ∃ seg mant : Nat, seg < 8 ∧ mant < 16 ∧
      (v < 32 → seg = 0) ∧ (32 ≤ v → 2 ^ (seg + 4) ≤ v ∧ v < 2 ^ (seg + 5)) ∧
      mant = (if seg < 2 then v / 2 % 16 else v / 2 ^ seg % 16) ∧
      exec (.lin2alaw x) s = .next { s with dout := (BitVec.ofNat 16 <|
        ((if 0 ≤ x.toInt then 128 else 0) + 16 * seg + mant) ^^^ 0x55) }

/-- R101 (the spec marks it derived): the decision intervals on the clamped magnitude. -/
def Obligations.AlawDecisionIntervals : Prop :=
  ∀ (x : Word) (s : State) (seg mant : Nat), seg < 8 → mant < 16 →
    let mag := min x.toInt.natAbs 32767
    (exec (.lin2alaw x) s = .next { s with dout := (BitVec.ofNat 16 <|
        ((if 0 ≤ x.toInt then 128 else 0) + 16 * seg + mant) ^^^ 0x55) } ↔
      if seg = 0 then 16 * mant ≤ mag ∧ mag ≤ 16 * mant + 15
      else (16 + mant) * 2 ^ (seg + 3) ≤ mag ∧ mag ≤ (17 + mant) * 2 ^ (seg + 3) - 1)

/-- R97 (derived in the spec, and its decision D10): the search by leading one finds the largest `i` with
`A_THR[i] <= v`, for the scaled magnitude of every sample. -/
def Obligations.AlawSegmentIsTheLastThreshold : Prop :=
  ∀ (x : Word) (i : Nat), i < 8 →
    let v := aScaled .abs x.toInt
    (aSegment v = i ↔ Config.aThr.getD i 0 ≤ v ∧ ∀ j, i < j → j < 8 → v < Config.aThr.getD j 0)

/-- R103 (the spec marks it derived): the encoder is onto; samples of opposite sign give bytes that differ in bit 7
only; zero goes with the non-negative side. -/
def Obligations.AlawEncoderIsOntoAndSymmetric : Prop :=
  (∀ y : Byte, ∃ x : Word, ∀ s : State, exec (.lin2alaw x) s = .next { s with dout := 0#8 ++ y }) ∧
  (∀ (x : Word) (s t u : State), 1 ≤ x.toInt → exec (.lin2alaw x) s = .next t →
    exec (.lin2alaw (-x)) s = .next u → u.dout = t.dout ^^^ 0x0080#16) ∧
  (∀ s : State, exec (.lin2alaw 0) s = .next { s with dout := 0x00D5#16 })

/-- R102 (the spec's own comparison, decision D11; log 6, log 18): the machine takes the absolute value; the
ones'-complement reading differs from it exactly at the negative samples, other than -32768, whose magnitude is a
multiple of the step at that magnitude, and these are 127. -/
def Obligations.AlawOnesComplementReadingDiffersOn127Samples : Prop :=
  (∀ (x : Word) (s : State), exec (.lin2alaw x) s = .next { s with dout := 0#8 ++ lin2alawWith .abs x.toInt }) ∧
  (∀ x : Word, lin2alawWith .onesComplement x.toInt ≠ lin2alawWith .abs x.toInt ↔
    x.toInt < 0 ∧ x.toInt ≠ -32768 ∧
      ((x.toInt.natAbs < 512 ∧ 16 ∣ x.toInt.natAbs) ∨
       ∃ seg, 2 ≤ seg ∧ seg < 8 ∧ 2 ^ (seg + 7) ≤ x.toInt.natAbs ∧ x.toInt.natAbs < 2 ^ (seg + 8) ∧
         2 ^ (seg + 3) ∣ x.toInt.natAbs)) ∧
  {x : Word | lin2alawWith .onesComplement x.toInt ≠ lin2alawWith .abs x.toInt}.ncard = 127

/-- R110, whole: mask, fields, the magnitude of each segment, sign; two's complement on `dout`, ignored bits without
effect, nothing else changed, and the encoding. The constants are the spec's decision D13 (log 8). -/
def Obligations.AlawDecoderFollowsItsSteps : Prop :=
  ∀ (ignored y : Byte) (s : State),
    decode (0b011#3 ++ (ignored ++ y)) = .instr (.alaw2lin ignored y) ∧
    let p := y.toNat ^^^ 0x55
    let seg := p / 16 % 8
    let t : Int :=
      if seg = 0 then p % 16 * 16 + 8 else if seg = 1 then p % 16 * 16 + 264 else (p % 16 * 16 + 264) * 2 ^ (seg - 1)
    exec (.alaw2lin ignored y) s =
      .next { s with dout := BitVec.ofInt 16 (if p / 128 = 1 then t else -t) }

/-- R112 (decision D13 of the spec; log 8): a decoded sample is the middle of the encoder's decision interval of its
byte. The samples that encode to `y` are those of one sign whose clamped magnitude is in an interval of length `step`,
and `y` decodes to the lower end plus half the step, with that sign. -/
def Obligations.AlawDecoderGivesTheMiddleOfTheInterval : Prop :=
  ∀ (ignored y : Byte) (s : State) (x : Word), lin2alaw x.toInt = y →
    ∃ lower step : Nat, step ∈ [16, 32, 64, 128, 256, 512, 1024] ∧
      exec (.alaw2lin ignored y) s = .next { s with dout := (BitVec.ofInt 16 <|
        if 0 ≤ x.toInt then (lower + step / 2 : Int) else -(lower + step / 2 : Int)) } ∧
      ∀ m : Word, lin2alaw m.toInt = y ↔
        ((0 ≤ m.toInt ↔ 0 ≤ x.toInt) ∧ lower ≤ min m.toInt.natAbs 32767 ∧ min m.toInt.natAbs 32767 < lower + step)

/-- R113 (its counts are derived in the spec): no A-law byte decodes to a magnitude below 8, flipping wire bit 7 negates
the result, and the 256 results are distinct. -/
def Obligations.AlawDecoderIsOddAndInjective : Prop :=
  ∀ (ign ign' y z : Byte) (s t u v : State),
    exec (.alaw2lin ign y) s = .next t → exec (.alaw2lin ign' z) u = .next v →
    (t.dout = v.dout ↔ y = z) ∧ 8 ≤ t.dout.toInt.natAbs ∧ (0 < t.dout.toInt ↔ y.getLsbD 7 = true) ∧
    (z = y ^^^ 0x80#8 → v.dout.toInt = -t.dout.toInt)

/-! ### The wire byte, both laws -/

/-- R57 and R60: what the wire bits of an encoder's result are. μ-law: bit 7 is 1 for a sample `>= 0`, bits 6:4 the
complement of the segment, bits 3:0 the complement of the mantissa. A-law: bit 7 is 1 for a sample `>= 0`, bits 6:4
the segment with bits 2 and 0 inverted, bits 3:0 the mantissa with bits 2 and 0 inverted. -/
def Obligations.WireByteLayouts : Prop :=
  ∀ (x : Word) (s : State),
    (∃ seg : BitVec 3, ∃ mant : BitVec 4, ∃ y : Byte,
      muPlain 32635 x.toInt = ⟨BitVec.ofBool (decide (x.toInt < 0)), seg, mant⟩ ∧
      exec (.lin2mulaw x) s = .next { s with dout := 0#8 ++ y } ∧
      y = ~~~ (muPlain 32635 x.toInt).toByte ∧
      y.getLsbD 7 = decide (0 ≤ x.toInt) ∧ y.extractLsb' 4 3 = ~~~ seg ∧ y.extractLsb' 0 4 = ~~~ mant) ∧
    (∃ seg : BitVec 3, ∃ mant : BitVec 4, ∃ y : Byte,
      aPlain .abs x.toInt = ⟨BitVec.ofBool (decide (0 ≤ x.toInt)), seg, mant⟩ ∧
      exec (.lin2alaw x) s = .next { s with dout := 0#8 ++ y } ∧
      y = (aPlain .abs x.toInt).toByte ^^^ 0x55#8 ∧
      y.getLsbD 7 = decide (0 ≤ x.toInt) ∧ y.extractLsb' 4 3 = seg ^^^ 0b101#3 ∧ y.extractLsb' 0 4 = mant ^^^ 0b0101#4)

/-! ### The transcoder -/

/-- R121: `ULAW2ALAW(y) = TblRead(TBL_U2A, y)`. The result is the entry of `TBL_U2A` at the wire byte,
zero-extended, nothing else changed, and the encoding; the corner cases and the worked example are those of the default
table (PRESUMED, log 5: general knowledge in the spec), which is not claimed to be this CORE's, whose contents are open
(log 4). -/
def Obligations.UlawToAlawReadsItsTable : Prop :=
  (∀ (ignored y : Byte) (s : State),
    decode (0b100#3 ++ (ignored ++ y)) = .instr (.ulaw2alaw ignored y) ∧
    exec (.ulaw2alaw ignored y) s = .next { s with dout := 0#8 ++ tables.u2a y }) ∧
  ([0xFF#8, 0x7F#8, 0x80#8, 0x00#8, 0xCE#8].map (ulaw2alaw Tables.default) =
    [0xD5#8, 0x55#8, 0xAA#8, 0x2A#8, 0xFA#8])

/-- R122: `ALAW2ULAW(y) = TblRead(TBL_A2U, y)`. The result is the entry of `TBL_A2U` at the wire byte,
zero-extended, nothing else changed, and the encoding; the corner cases and the worked example are those of the default
table (PRESUMED, log 5: general knowledge in the spec), which is not claimed to be this CORE's, whose contents are open
(log 4). -/
def Obligations.AlawToUlawReadsItsTable : Prop :=
  (∀ (ignored y : Byte) (s : State),
    decode (0b101#3 ++ (ignored ++ y)) = .instr (.alaw2ulaw ignored y) ∧
    exec (.alaw2ulaw ignored y) s = .next { s with dout := 0#8 ++ tables.a2u y }) ∧
  ([0xD5#8, 0x55#8, 0xAA#8, 0x2A#8, 0xEA#8].map (alaw2ulaw Tables.default) =
    [0xFE#8, 0x7E#8, 0x80#8, 0x00#8, 0xBF#8]) ∧
  (∀ y : Byte, alaw2ulaw Tables.default y ≠ 0xFF#8 ∧ alaw2ulaw Tables.default y ≠ 0x7F#8)

/-- R36: whatever the tables, `ULAW2ALAW` reads one entry of `TBL_U2A` and nothing else, `ALAW2ULAW` one entry of
`TBL_A2U` and nothing else, and no other operation reads a table. -/
def Obligations.OnlyTheTranscoderReadsATable : Prop :=
  ∀ (T T' : Tables) (op : Selector) (din : Word),
    (op = 4 → T.u2a (din.extractLsb' 0 8) = T'.u2a (din.extractLsb' 0 8) → evalWith T op din = evalWith T' op din) ∧
    (op = 5 → T.a2u (din.extractLsb' 0 8) = T'.a2u (din.extractLsb' 0 8) → evalWith T op din = evalWith T' op din) ∧
    (op ≠ 4 → op ≠ 5 → evalWith T op din = evalWith T' op din)

/-- R126 (general knowledge in the spec; log 5): the default tables are the expansion of the number tables. -/
def Obligations.DefaultTablesExpandTheNumberTables : Prop :=
  ∀ y : Byte, Tables.default.u2a y = (Tables.ofNumbers u2aNum a2uNum).u2a y ∧
    Tables.default.a2u y = (Tables.ofNumbers u2aNum a2uNum).a2u y

/-- R127, first part (the spec marks it derived from its defaults; log 5): both default tables keep wire bit 7 and are
symmetric in sign, are monotone in magnitude number (the 7 bits left when the law's mask is taken off), and have
images of 240 bytes. -/
def Obligations.DefaultTablesKeepSignAndOrder : Prop :=
  (∀ y : Byte,
    (Tables.default.u2a y).getLsbD 7 = y.getLsbD 7 ∧ (Tables.default.a2u y).getLsbD 7 = y.getLsbD 7 ∧
    Tables.default.u2a (y ^^^ 0x80#8) = Tables.default.u2a y ^^^ 0x80#8 ∧
    Tables.default.a2u (y ^^^ 0x80#8) = Tables.default.a2u y ^^^ 0x80#8) ∧
  (∀ y z : Byte,
    ((y ^^^ 0xFF#8).toNat % 128 ≤ (z ^^^ 0xFF#8).toNat % 128 →
      (Tables.default.u2a y ^^^ 0x55#8).toNat % 128 ≤ (Tables.default.u2a z ^^^ 0x55#8).toNat % 128) ∧
    ((y ^^^ 0x55#8).toNat % 128 ≤ (z ^^^ 0x55#8).toNat % 128 →
      (Tables.default.a2u y ^^^ 0xFF#8).toNat % 128 ≤ (Tables.default.a2u z ^^^ 0xFF#8).toNat % 128)) ∧
  (Set.range Tables.default.u2a).ncard = 240 ∧ (Set.range Tables.default.a2u).ncard = 240

/-- R127, second part (log 5): double transcoding under the default tables returns the byte but for 16 bytes in each
direction, in which it changes bit 0 alone. -/
def Obligations.DefaultTablesDoubleTranscoding : Prop :=
  (∀ b : Byte, ulaw2alaw Tables.default (alaw2ulaw Tables.default b) =
    if b ∈ [0x1A#8, 0x48#8, 0x4A#8, 0x4C#8, 0x4E#8, 0x6B#8, 0x79#8, 0x7B#8,
            0x9A#8, 0xC8#8, 0xCA#8, 0xCC#8, 0xCE#8, 0xEB#8, 0xF9#8, 0xFB#8]
    then b ^^^ 0x01#8 else b) ∧
  (∀ b : Byte, alaw2ulaw Tables.default (ulaw2alaw Tables.default b) =
    if b ∈ [0x71#8, 0x73#8, 0x75#8, 0x77#8, 0x79#8, 0x7B#8, 0x7D#8, 0x7F#8,
            0xF1#8, 0xF3#8, 0xF5#8, 0xF7#8, 0xF9#8, 0xFB#8, 0xFD#8, 0xFF#8]
    then b ^^^ 0x01#8 else b)

/-- R127, third part, and R120 (log 5): the default tables are not the composition through a linear sample; they differ
from it on exactly the 39 and 34 bytes listed. -/
def Obligations.DefaultTablesAreNotTheComposition : Prop :=
  (∀ y : Byte, ulaw2alaw Tables.default y ≠ lin2alaw (mulaw2lin y) ↔
    (0x20#8 ≤ y ∧ y ≤ 0x2F#8) ∨ (0xA0#8 ≤ y ∧ y ≤ 0xAF#8) ∨
    y ∈ [0x3F#8, 0x4E#8, 0x4F#8, 0x7F#8, 0xBF#8, 0xCE#8, 0xCF#8]) ∧
  (∀ y : Byte, alaw2ulaw Tables.default y ≠ lin2mulaw (alaw2lin y) ↔
    y ≤ 0x0F#8 ∨ (0x80#8 ≤ y ∧ y ≤ 0x8F#8) ∨ y ∈ [0x1A#8, 0x9A#8])

/-- R128 (general knowledge in the spec; log 19): the known variant changes four entries and no other. -/
def Obligations.VariantTablesChangeFourEntries : Prop :=
  ∀ y : Byte,
    (Tables.variant.u2a y ≠ Tables.default.u2a y ↔ y = 0xAF#8 ∨ y = 0x2F#8) ∧
    (Tables.variant.a2u y ≠ Tables.default.a2u y ↔ y = 0x9A#8 ∨ y = 0x1A#8)

/-! ### Laws across the operations -/

/-- R142, the five vectors of the source, from every state. -/
def Obligations.SourceVectorsHold : Prop :=
  ∀ (s : State) (ignored : Byte),
    exec (.lin2mulaw (BitVec.ofInt 16 0)) s = .next { s with dout := 0x00FF#16 } ∧
    exec (.lin2mulaw (BitVec.ofInt 16 32635)) s = .next { s with dout := 0x0080#16 } ∧
    exec (.mulaw2lin ignored 0xFF#8) s = .next { s with dout := BitVec.ofInt 16 0 } ∧
    exec (.lin2alaw (BitVec.ofInt 16 0)) s = .next { s with dout := 0x00D5#16 } ∧
    exec (.alaw2lin ignored 0xD5#8) s = .next { s with dout := BitVec.ofInt 16 8 }

/-- R135 (the source's law with the correction of C2, which the spec marks derived): decoding a byte and encoding the
sample gives the byte back, for every A-law byte and every μ-law byte but 0x7F, which gives 0xFF. -/
def Obligations.RoundTripFromTheCompandedSide : Prop :=
  ∀ (ignored y : Byte) (s : State),
    (∃ t u : State, exec (.alaw2lin ignored y) s = .next t ∧ exec (.lin2alaw t.dout) t = .next u ∧
      u.dout = 0#8 ++ y) ∧
    (∃ t u : State, exec (.mulaw2lin ignored y) s = .next t ∧ exec (.lin2mulaw t.dout) t = .next u ∧
      u.dout = 0#8 ++ (if y = 0x7F#8 then 0xFF#8 else y))

/-- R136 (the spec marks it derived): every decoder result is a fixed point of encode then decode, and encoding is not
changed by decoding and encoding again, but for `-1`, `-2`, `-3` in μ-law. -/
def Obligations.EncodeThenDecodeIsIdempotent : Prop :=
  (∀ y : Byte, mulaw2lin (lin2mulaw (mulaw2lin y)) = mulaw2lin y ∧ alaw2lin (lin2alaw (alaw2lin y)) = alaw2lin y) ∧
  (∀ x : Word,
    lin2alaw (alaw2lin (lin2alaw x.toInt)) = lin2alaw x.toInt ∧
    (if x.toInt = -1 ∨ x.toInt = -2 ∨ x.toInt = -3
     then lin2mulaw x.toInt = 0x7F#8 ∧ lin2mulaw (mulaw2lin (lin2mulaw x.toInt)) = 0xFF#8
     else lin2mulaw (mulaw2lin (lin2mulaw x.toInt)) = lin2mulaw x.toInt))

/-- R137, the μ-law rows (the spec marks the bounds derived): for an unclipped sample the error `e`, taken
with the sample's sign, is from minus half a step to half a step less one; clipped samples give 32124 and -32124; the
result lies in the segment of the clipped magnitude. -/
def Obligations.MulawRoundTripError : Prop :=
  ∀ (x : Word) (seg : Nat), seg < 8 →
    2 ^ (seg + 7) ≤ min x.toInt.natAbs 32635 + 132 → min x.toInt.natAbs 32635 + 132 < 2 ^ (seg + 8) →
    let r := mulaw2lin (lin2mulaw x.toInt)
    let e := if 0 ≤ x.toInt then x.toInt - r else -(x.toInt - r)
    (x.toInt.natAbs ≤ 32635 → -(2 ^ (seg + 2)) ≤ e ∧ e ≤ 2 ^ (seg + 2) - 1) ∧
    (32636 ≤ x.toInt → r = 32124 ∧ 512 ≤ x.toInt - r ∧ x.toInt - r ≤ 643) ∧
    (x.toInt ≤ -32636 → r = -32124 ∧ -644 ≤ x.toInt - r ∧ x.toInt - r ≤ -512) ∧
    2 ^ (seg + 7) ≤ r.natAbs + 132 ∧ r.natAbs + 132 < 2 ^ (seg + 8)

/-- R137, the A-law rows (the spec marks the bounds derived): as for μ-law, with steps 16, 16, 32, .., 1024; the one
clamped sample gives -32256. -/
def Obligations.AlawRoundTripError : Prop :=
  ∀ (x : Word) (seg : Nat), seg < 8 →
    (if seg = 0 then min x.toInt.natAbs 32767 < 256
     else 2 ^ (seg + 7) ≤ min x.toInt.natAbs 32767 ∧ min x.toInt.natAbs 32767 < 2 ^ (seg + 8)) →
    let r := alaw2lin (lin2alaw x.toInt)
    let e := if 0 ≤ x.toInt then x.toInt - r else -(x.toInt - r)
    (x.toInt ≠ -32768 → -(2 ^ (max seg 1 + 2)) ≤ e ∧ e ≤ 2 ^ (max seg 1 + 2) - 1) ∧
    (x.toInt = -32768 → r = -32256 ∧ x.toInt - r = -512) ∧
    (if seg = 0 then r.natAbs < 256 else 2 ^ (seg + 7) ≤ r.natAbs ∧ r.natAbs < 2 ^ (seg + 8))

/-- R138 (the spec marks it derived): the sign of a sample through encode and decode. -/
def Obligations.SignThroughTheRoundTrip : Prop :=
  ∀ x : Word,
    (mulaw2lin (lin2mulaw x.toInt) = 0 ↔ -3 ≤ x.toInt ∧ x.toInt ≤ 3) ∧
    (0 < mulaw2lin (lin2mulaw x.toInt) ↔ 4 ≤ x.toInt) ∧
    (mulaw2lin (lin2mulaw x.toInt) < 0 ↔ x.toInt ≤ -4) ∧
    (0 ≤ x.toInt → 8 ≤ alaw2lin (lin2alaw x.toInt)) ∧
    (x.toInt < 0 → alaw2lin (lin2alaw x.toInt) ≤ -8) ∧
    (x.toInt = 0 → alaw2lin (lin2alaw x.toInt) = 8)

/-- R139 (the spec marks it derived): encode then decode keeps the order of samples in both laws, and is odd but for
zero in A-law. -/
def Obligations.RoundTripKeepsOrderAndSymmetry : Prop :=
  (∀ x z : Word, x.toInt ≤ z.toInt →
    mulaw2lin (lin2mulaw x.toInt) ≤ mulaw2lin (lin2mulaw z.toInt) ∧
    alaw2lin (lin2alaw x.toInt) ≤ alaw2lin (lin2alaw z.toInt)) ∧
  (∀ x : Word, 0 ≤ x.toInt → mulaw2lin (lin2mulaw (-x.toInt)) = -mulaw2lin (lin2mulaw x.toInt)) ∧
  (∀ x : Word, 1 ≤ x.toInt → alaw2lin (lin2alaw (-x.toInt)) = -alaw2lin (lin2alaw x.toInt)) ∧
  alaw2lin (lin2alaw 0) = 8

/-- R141 (the source's stream property for CORE, derived in the spec): encoding the samples of any list and decoding the
results, one operation a sample, gives as many samples, each within one step of the original's segment. The list is
presented and run by `present` (log 3) and `runProgram` (log 16), the model's choice (DESIGN CHOICE). -/
def Obligations.MulawStreamComesBackWithinOneStep : Prop :=
  ∀ (xs : List Word) (s : State),
    ∃ (t u : State) (ys zs : List Word),
      runProgram (xs.map fun x => 0b000#3 ++ x) s = .next (t, ys) ∧
      runProgram (ys.map fun y => 0b001#3 ++ y) t = .next (u, zs) ∧
      ys.length = xs.length ∧
      List.Forall₂ (fun x z : Word => ∃ seg, seg < 8 ∧
        2 ^ (seg + 7) ≤ min x.toInt.natAbs 32635 + 132 ∧ min x.toInt.natAbs 32635 + 132 < 2 ^ (seg + 8) ∧
        (x.toInt - z.toInt).natAbs ≤ 2 ^ (seg + 3)) xs zs
end

