-- ==== Sys2Proof/Laws/Bits.lean ====
section
/-! SUPPORT. The notation's laws (spec 00_scope.md R12 to R14) and the companded byte as a number (10_state.md R30). -/

namespace Sys2Proof.Machine

/-- `msb` is the position R13 describes. -/
theorem msb_eq {v p : Nat} (lo : 2 ^ p ≤ v) (hi : v < 2 ^ (p + 1)) : msb v = p := by
  have hv : v ≠ 0 := by have := Nat.two_pow_pos p; omega
  exact (Nat.log2_eq_iff hv).2 ⟨lo, hi⟩

/-- `sint16` as R14 writes it. -/
theorem sint16_eq (w : Word) : sint16 w = if w.toNat < 32768 then (w.toNat : Int) else w.toNat - 65536 := by
  simp only [sint16, BitVec.toInt_eq_toNat_cond]
  split <;> split <;> omega

/-- The sample range (R29). -/
theorem sint16_range (w : Word) : -32768 ≤ sint16 w ∧ sint16 w ≤ 32767 := by
  have := w.isLt
  rw [sint16_eq]; split <;> omega

/-- `bits16` is the inverse of `sint16` on samples (R14). -/
theorem sint16_bits16 {x : Int} (lo : -32768 ≤ x) (hi : x ≤ 32767) : sint16 (bits16 x) = x := by
  rw [sint16, bits16, BitVec.toInt_ofInt]
  exact Int.bmod_eq_of_le (by norm_num; omega) (by norm_num; omega)

@[simp] theorem bits16_sint16 (w : Word) : bits16 (sint16 w) = w := by
  simp [bits16, sint16]

@[simp] theorem zext16_toNat (b : Byte) : (zext16 b).toNat = b.toNat := by
  have := b.isLt
  simp only [zext16, BitVec.truncate_eq_setWidth, BitVec.toNat_setWidth]
  omega

/-- Zero extension is a zero upper byte (R58). -/
theorem zext16_eq (b : Byte) : zext16 b = 0#8 ++ b := by
  apply BitVec.eq_of_toNat_eq
  have h : (0#8 ++ b : Word).toNat = _ := BitVec.toNat_append 0#8 b
  rw [h]
  simp

theorem magnitude_sint16_le (w : Word) : magnitude (sint16 w) ≤ 32768 := by
  have := sint16_range w
  simp only [magnitude]; omega

theorem clip_le (limit mag : Nat) : clip limit mag ≤ limit := by simp [clip]

/-- The plain byte as a number: `sign << 7 | segment << 4 | mantissa`, with no overlap (R30, R76). -/
theorem ofNumbers_toByte (b : Bool) (seg mant : Nat) (hseg : seg < 8) (hmant : mant < 16) :
    (PlainByte.ofNumbers b seg mant).toByte = BitVec.ofNat 8 ((if b then 128 else 0) + 16 * seg + mant) := by
  interval_cases seg <;> interval_cases mant <;> cases b <;> rfl

/-- Taking a byte apart into its fields and putting it together again. -/
@[simp] theorem ofByte_toByte (p : PlainByte) : PlainByte.ofByte p.toByte = p := by
  obtain ⟨s, g, m⟩ := p
  revert s g m; decide

@[simp] theorem toByte_ofByte (b : Byte) : (PlainByte.ofByte b).toByte = b := by
  revert b; decide +kernel

/-- The fields of a byte as numbers (R30). -/
theorem ofByte_numbers (b : Byte) :
    ((PlainByte.ofByte b).sign = 1#1 ↔ b.toNat / 128 = 1) ∧
    (PlainByte.ofByte b).segment.toNat = b.toNat / 16 % 8 ∧ (PlainByte.ofByte b).mantissa.toNat = b.toNat % 16 := by
  revert b; decide +kernel

end Sys2Proof.Machine
end

