-- ==== Sys2Proof/Laws/Codec.lean ====
section
/-! SUPPORT. One lemma for each step function of the codec, saying what it gives in plain arithmetic once the segment is
known. -/

namespace Sys2Proof.Machine

theorem muBiased_range (x : Int) :
    132 ≤ muBiased (muMagnitude Config.muClip x) ∧ muBiased (muMagnitude Config.muClip x) ≤ 32767 := by
  have := clip_le Config.muClip (magnitude x)
  simp only [muBiased, muMagnitude, Config.muBias, Config.muClip] at *
  omega

/-- The segment, from the interval of the biased magnitude (R74). -/
theorem muSegment_eq {b seg : Nat} (lo : 2 ^ (seg + 7) ≤ b) (hi : b < 2 ^ (seg + 8)) : muSegment b = seg := by
  simp [muSegment, msb_eq lo hi]

/-- The mantissa, once the segment is known (R75). -/
theorem muMantissa_eq {b seg : Nat} (h : muSegment b = seg) : muMantissa b = b / 2 ^ (seg + 3) % 16 := by
  rw [muMantissa, h, Nat.shiftRight_eq_div_pow, show (0xF : Nat) = 2 ^ 4 - 1 from rfl, Nat.and_two_pow_sub_one_eq_mod]

/-- A biased magnitude lies in one of the eight segments (R73, R74). -/
theorem exists_muSegment {b : Nat} (lo : 132 ≤ b) (hi : b ≤ 32767) :
    ∃ seg < 8, 2 ^ (seg + 7) ≤ b ∧ b < 2 ^ (seg + 8) := by
  by_contra h
  push Not at h
  have h0 := h 0; have h1 := h 1; have h2 := h 2; have h3 := h 3
  have h4 := h 4; have h5 := h 5; have h6 := h 6; have h7 := h 7
  norm_num at *
  omega

/-- Segment 0 of A-law (R97). -/
theorem aSegment_eq_zero {v : Nat} (h : v < 32) : aSegment v = 0 := by simp [aSegment, h]

/-- The segments above 0, from the interval of the scaled magnitude (R97). -/
theorem aSegment_eq {v seg : Nat} (lo : 2 ^ (seg + 4) ≤ v) (hi : v < 2 ^ (seg + 5)) (h : 32 ≤ v) :
    aSegment v = seg := by
  simp [aSegment, msb_eq lo hi, Nat.not_lt.2 h]

/-- The mantissa, once the segment is known (R98). -/
theorem aMantissa_eq {v seg : Nat} (h : aSegment v = seg) :
    aMantissa v = if seg < 2 then v / 2 % 16 else v / 2 ^ seg % 16 := by
  simp only [aMantissa, h, Nat.shiftRight_eq_div_pow, show (0xF : Nat) = 2 ^ 4 - 1 from rfl,
    Nat.and_two_pow_sub_one_eq_mod, pow_one]

/-- The scaled magnitude as a division (R97). -/
theorem aScaled_eq (neg : ANeg) (x : Int) : aScaled neg x = min (aMagnitude neg x) 32767 / 8 := by
  simp [aScaled, clip, Config.aClip, Config.aShiftIn, Nat.shiftRight_eq_div_pow]

theorem aScaled_lt (neg : ANeg) (x : Int) : aScaled neg x < 4096 := by
  rw [aScaled_eq]; omega

/-- A scaled magnitude of at least 32 lies in one of the segments 1 to 7 (R97). -/
theorem exists_aSegment {v : Nat} (lo : 32 ≤ v) (hi : v < 4096) :
    ∃ seg, 1 ≤ seg ∧ seg < 8 ∧ 2 ^ (seg + 4) ≤ v ∧ v < 2 ^ (seg + 5) := by
  by_contra h
  push Not at h
  have h1 := h 1; have h2 := h 2; have h3 := h 3
  have h4 := h 4; have h5 := h 5; have h6 := h 6; have h7 := h 7
  norm_num at *
  omega

/-- The representative of a μ-law pair as a number (R87). -/
theorem muRepresentative_eq (seg mant : Nat) :
    muRepresentative seg mant = ((mant : Int) * 8 + 132) * 2 ^ seg - 132 := by
  simp [muRepresentative, Nat.shiftLeft_eq, Config.muBias]

/-- The μ-law mask is its own inverse (R57, R86). -/
@[simp] theorem muMask_muMask (b : Byte) : muMask (muMask b) = b := by
  simp [muMask]

/-- The A-law mask is its own inverse (R60, R111). -/
@[simp] theorem aMask_aMask (b : Byte) : aMask (aMask b) = b := by
  simp [aMask]

/-- The plain μ-law byte of a sample, from the segment of its biased magnitude (R70). -/
theorem lin2mulaw_eq {x : Int} {seg : Nat} (lo : 2 ^ (seg + 7) ≤ min x.natAbs 32635 + 132)
    (hi : min x.natAbs 32635 + 132 < 2 ^ (seg + 8)) :
    lin2mulaw x = muMask (PlainByte.ofNumbers (decide (x < 0)) seg
      ((min x.natAbs 32635 + 132) / 2 ^ (seg + 3) % 16)).toByte := by
  have h := muSegment_eq lo hi
  simp only [lin2mulaw, lin2mulawWith, muPlain, muSign, muBiased, muMagnitude, clip, magnitude, Config.muClip,
    Config.muBias, h, muMantissa_eq h]

/-- The plain A-law byte of a sample, from the segment of its scaled magnitude (R95). -/
theorem lin2alawWith_eq {neg : ANeg} {x : Int} {seg : Nat} (h : aSegment (aScaled neg x) = seg) :
    lin2alawWith neg x = aMask (PlainByte.ofNumbers (decide (0 ≤ x)) seg
      (if seg < 2 then aScaled neg x / 2 % 16 else aScaled neg x / 2 ^ seg % 16)).toByte := by
  simp only [lin2alawWith, aPlain, aSign, h, aMantissa_eq h]

/-- Decoding a μ-law byte given by its fields as numbers (R85). -/
theorem mulaw2lin_ofNumbers (b : Bool) {seg mant : Nat} (hseg : seg < 8) (hmant : mant < 16) :
    mulaw2lin (muMask (PlainByte.ofNumbers b seg mant).toByte) =
      if b then -(((mant : Int) * 8 + 132) * 2 ^ seg - 132) else ((mant : Int) * 8 + 132) * 2 ^ seg - 132 := by
  have h1 : (BitVec.ofNat 3 seg).toNat = seg := by simp; omega
  have h2 : (BitVec.ofNat 4 mant).toNat = mant := by simp; omega
  cases b <;> simp [mulaw2lin, PlainByte.ofNumbers, h1, h2, muRepresentative_eq]

/-- Decoding an A-law byte given by its fields as numbers (R110). -/
theorem alaw2lin_ofNumbers (b : Bool) {seg mant : Nat} (hseg : seg < 8) (hmant : mant < 16) :
    alaw2lin (aMask (PlainByte.ofNumbers b seg mant).toByte) =
      if b then (aRepresentative seg mant : Int) else -(aRepresentative seg mant : Int) := by
  have h1 : (BitVec.ofNat 3 seg).toNat = seg := by simp; omega
  have h2 : (BitVec.ofNat 4 mant).toNat = mant := by simp; omega
  cases b <;> simp [alaw2lin, PlainByte.ofNumbers, h1, h2]

end Sys2Proof.Machine
end

