-- ==== Sys2Proof/Laws/Decode.lean ====
section
/-! SUPPORT. The fields of a command word, and the decoder on a command word given as its two fields. -/

namespace Sys2Proof

/-- The upper part of a concatenation. -/
theorem extract_append_high {n m : Nat} (a : BitVec n) (b : BitVec m) : (a ++ b).extractLsb' m n = a := by
  apply BitVec.eq_of_getLsbD_eq
  intro i hi
  simp [BitVec.getLsbD_append, hi]

/-- The lower part of a concatenation. -/
theorem extract_append_low {n m : Nat} (a : BitVec n) (b : BitVec m) : (a ++ b).extractLsb' 0 m = b := by
  apply BitVec.eq_of_getLsbD_eq
  intro i hi
  simp [BitVec.getLsbD_append, hi]

/-- Taking a pattern apart and putting it together again. -/
theorem append_of_extracts {n m : Nat} (c : BitVec (n + m)) : c.extractLsb' m n ++ c.extractLsb' 0 m = c := by
  apply BitVec.eq_of_getLsbD_eq
  intro i hi
  simp

@[simp] theorem selectorOf_append (op : Selector) (din : Word) : selectorOf (op ++ din) = op :=
  extract_append_high op din

@[simp] theorem dinOf_append (op : Selector) (din : Word) : dinOf (op ++ din) = din :=
  extract_append_low op din

@[simp] theorem selectorOf_append_dinOf (c : CommandWord) : (selectorOf c ++ dinOf c : CommandWord) = c :=
  append_of_extracts (n := 3) (m := 16) c

@[simp] theorem highByte_append (a b : Byte) : highByte (a ++ b) = a :=
  extract_append_high a b

@[simp] theorem lowByte_append (a b : Byte) : lowByte (a ++ b) = b :=
  extract_append_low a b

@[simp] theorem highByte_append_lowByte (w : Word) : (highByte w ++ lowByte w : Word) = w :=
  append_of_extracts (n := 8) (m := 8) w

/-- The decoder on a command word given as selector and operand. -/
@[simp] theorem decode_append (op : Selector) (din : Word) : decode (op ++ din) = decodePorts op din := by
  simp [decode]

/-- What the decoder can read from the ports: one case for each selector. -/
theorem decodePorts_cases (op : Selector) (din : Word) :
    (op = 0 ∧ decodePorts op din = .instr (.lin2mulaw din)) ∨
    (op = 1 ∧ decodePorts op din = .instr (.mulaw2lin (highByte din) (lowByte din))) ∨
    (op = 2 ∧ decodePorts op din = .instr (.lin2alaw din)) ∨
    (op = 3 ∧ decodePorts op din = .instr (.alaw2lin (highByte din) (lowByte din))) ∨
    (op = 4 ∧ decodePorts op din = .instr (.ulaw2alaw (highByte din) (lowByte din))) ∨
    (op = 5 ∧ decodePorts op din = .instr (.alaw2ulaw (highByte din) (lowByte din))) ∨
    (6 ≤ op.toNat ∧ decodePorts op din = .reservedSelector op) := by
  have key : ∀ op : Selector, op = 0 ∨ op = 1 ∨ op = 2 ∨ op = 3 ∨ op = 4 ∨ op = 5 ∨ op = 6 ∨ op = 7 := by decide
  rcases key op with rfl | rfl | rfl | rfl | rfl | rfl | rfl | rfl <;> simp [decodePorts]

namespace Machine

/-- A presented command is the command on the ports. -/
@[simp] theorem command_present (s : State) (c : CommandWord) : (s.present c).command = c :=
  selectorOf_append_dinOf c

end Machine
end Sys2Proof
end

