-- ==== Sys2Proof/Laws/State.lean ====
section
/-! SUPPORT. One lemma for each field and each update of the state, so that no later proof unfolds a record update. -/

namespace Sys2Proof.Machine

@[simp] theorem setDout_core (s : State) (d : Word) : (s.setDout d).core = s.core := rfl
@[simp] theorem setDout_op (s : State) (d : Word) : (s.setDout d).op = s.op := rfl
@[simp] theorem setDout_din (s : State) (d : Word) : (s.setDout d).din = s.din := rfl
@[simp] theorem setDout_dout (s : State) (d : Word) : (s.setDout d).dout = d := rfl

@[simp] theorem present_core (s : State) (c : CommandWord) : (s.present c).core = s.core := rfl
@[simp] theorem present_op (s : State) (c : CommandWord) : (s.present c).op = selectorOf c := rfl
@[simp] theorem present_din (s : State) (c : CommandWord) : (s.present c).din = dinOf c := rfl
@[simp] theorem present_dout (s : State) (c : CommandWord) :
    (s.present c).dout = doutOf (selectorOf c) (dinOf c) := rfl

/-- Presenting leaves nothing of the ports' earlier values behind (R50). -/
theorem present_eq (s : State) (c : CommandWord) :
    s.present c = ⟨s.core, selectorOf c, dinOf c, doutOf (selectorOf c) (dinOf c)⟩ := rfl

@[simp] theorem present_present (s : State) (c d : CommandWord) : (s.present c).present d = s.present d := rfl

/-- `dout` for a selector that `Eval` gives a value (R55). -/
theorem doutOf_eq {op : Selector} {din d : Word} (h : eval op din = some d) : doutOf op din = d := by
  simp [doutOf, h]

/-- `dout` for a selector that `Eval` gives no value (R59). -/
theorem doutOf_reserved {op : Selector} {din : Word} (h : eval op din = none) :
    doutOf op din = Config.unspecifiedDout op din := by
  simp [doutOf, h]

/-- The last write to `dout` is the one that stands. -/
@[simp] theorem setDout_setDout (s : State) (d e : Word) : (s.setDout d).setDout e = s.setDout e := rfl

/-- Writing back what stands on `dout` changes nothing. -/
@[simp] theorem setDout_self (s : State) : s.setDout s.dout = s := rfl

theorem setDout_eq (s : State) (d : Word) : s.setDout d = { s with dout := d } := rfl

/-- The command on the ports is not changed by writing a result. -/
@[simp] theorem command_setDout (s : State) (d : Word) : (s.setDout d).command = s.command := rfl

end Sys2Proof.Machine
end

