-- ==== Sys2Proof/Laws/Exec.lean ====
section
/-! SUPPORT. What completing an operation can do, each operation's meaning as that one shared effect, and the step on
each outcome of the decoder. -/

namespace Sys2Proof.Machine

/-- Everything `complete` can do: a next state with the result on `dout` and nothing else changed. -/
theorem complete_next {d : Word} {s t : State} (h : complete d s = .next t) :
    t.dout = d ∧ t.core = s.core ∧ t.op = s.op ∧ t.din = s.din := by
  cases h; exact ⟨rfl, rfl, rfl, rfl⟩

theorem exec_lin2mulaw (x : Word) (s : State) :
    exec (.lin2mulaw x) s = complete (zext16 (lin2mulaw (sint16 x))) s := rfl

theorem exec_mulaw2lin (ignored y : Byte) (s : State) :
    exec (.mulaw2lin ignored y) s = complete (bits16 (mulaw2lin y)) s := rfl

theorem exec_lin2alaw (x : Word) (s : State) :
    exec (.lin2alaw x) s = complete (zext16 (lin2alaw (sint16 x))) s := rfl

theorem exec_alaw2lin (ignored y : Byte) (s : State) :
    exec (.alaw2lin ignored y) s = complete (bits16 (alaw2lin y)) s := rfl

theorem exec_ulaw2alaw (ignored y : Byte) (s : State) :
    exec (.ulaw2alaw ignored y) s = complete (zext16 (tables.u2a y)) s := rfl

theorem exec_alaw2ulaw (ignored y : Byte) (s : State) :
    exec (.alaw2ulaw ignored y) s = complete (zext16 (tables.a2u y)) s := rfl

theorem step_of_instr {s : State} {i : Instr} (h : decodePorts s.op s.din = .instr i) : step s = exec i s := by
  simp [step, State.command, h]

theorem step_of_reserved {s : State} {op : Selector} (h : decodePorts s.op s.din = .reservedSelector op) :
    step s = .refused (.reservedSelector op) := by
  simp [step, State.command, h]

/-- A program of one more command: its first transaction, then the rest. -/
theorem runProgram_cons_next {c : CommandWord} {cs : List CommandWord} {s t u : State} {ds : List Word}
    (h : transact s c = .next t) (hs : runProgram cs t = .next (u, ds)) :
    runProgram (c :: cs) s = .next (u, t.dout :: ds) := by
  simp [runProgram, h, hs]

end Sys2Proof.Machine
end

