-- ==== Sys2Proof/Laws/PerInstr.lean ====
section
/-! SUPPORT. Statements for all operations, one lemma for each constructor of `Instr`. -/

namespace Sys2Proof.Laws

/-- The encoded operation carries its row's selector in `cmd[18:16]` and its operand in `cmd[15:0]` (spec
30_encoding.md R51, R53). -/
def EncodesInItsRow.Statement (i : Instr) : Prop :=
  selectorOf (encode i) = i.mnemonic.selector ∧ dinOf (encode i) = i.din

theorem EncodesInItsRow.lin2mulaw (x : Word) : EncodesInItsRow.Statement (.lin2mulaw x) :=
  ⟨selectorOf_append _ _, dinOf_append _ _⟩

theorem EncodesInItsRow.mulaw2lin (ignored y : Byte) : EncodesInItsRow.Statement (.mulaw2lin ignored y) :=
  ⟨selectorOf_append _ _, dinOf_append _ _⟩

theorem EncodesInItsRow.lin2alaw (x : Word) : EncodesInItsRow.Statement (.lin2alaw x) :=
  ⟨selectorOf_append _ _, dinOf_append _ _⟩

theorem EncodesInItsRow.alaw2lin (ignored y : Byte) : EncodesInItsRow.Statement (.alaw2lin ignored y) :=
  ⟨selectorOf_append _ _, dinOf_append _ _⟩

theorem EncodesInItsRow.ulaw2alaw (ignored y : Byte) : EncodesInItsRow.Statement (.ulaw2alaw ignored y) :=
  ⟨selectorOf_append _ _, dinOf_append _ _⟩

theorem EncodesInItsRow.alaw2ulaw (ignored y : Byte) : EncodesInItsRow.Statement (.alaw2ulaw ignored y) :=
  ⟨selectorOf_append _ _, dinOf_append _ _⟩

end Sys2Proof.Laws
end

