-- ==== Sys2Proof/Machine/Flags.lean ====
section
/-! DEFINITION. Flags: CORE has none, and no operation writes one (spec 10_state.md R23; "Flags written: none" in R70,
R85, R95, R110, R121, R122). -/

namespace Sys2Proof.Machine

/-- The flags of CORE: none (R23). -/
inductive Flag : Type
  deriving DecidableEq, Repr

/-- The flags an operation writes. -/
def flagsWritten : Instr → List Flag
  | .lin2mulaw _ => []
  | .mulaw2lin _ _ => []
  | .lin2alaw _ => []
  | .alaw2lin _ _ => []
  | .ulaw2alaw _ _ => []
  | .alaw2ulaw _ _ => []

end Sys2Proof.Machine
end

