-- ==== Sys2Proof/Tests/Slice0.lean ====
section
/-! SUPPORT. Tests. Expected results are the spec's own: the source vectors S1 to S5, the worked examples of R70, R85,
R95, R110, R121, R122 and the tables of 95_test_vectors.md, or words written out bit by bit from R56. Each statement
with hypotheses has a witness here, at the edges of its ranges. -/

namespace Sys2Proof.Tests

open Sys2Proof.Machine

/-- The reset state with a command word on its input ports. -/
def stateOf (c : CommandWord) : State := State.reset.present c

/-- What stands on `dout` after an outcome. -/
def result : Host.Outcome State Fault Refusal → Option Word
  | .next t => some t.dout
  | .fault _ => none
  | .refused _ => none

/-- The refusal an outcome ends in. -/
def refusal : Host.Outcome State Fault Refusal → Option Refusal
  | .next _ => none
  | .fault _ => none
  | .refused r => some r

/-- The result list a program ends with. -/
def results : Host.Outcome (State × List Word) Fault Refusal → Option (List Word)
  | .next p => some p.2
  | .fault _ => none
  | .refused _ => none

/-! ### Well-formedness: an ill-formed term for each check -/

theorem test_wf_reserved_selectors_refused :
    wfCommand 0x60000#19 = false ∧ wfCommand 0x7FFFF#19 = false ∧ wfCommand 0x5FFFF#19 = true := by decide
theorem test_wf_sample_pattern_too_large : Written.wf ⟨.lin2mulaw, .hex4 65536⟩ = false := by decide
theorem test_wf_sample_above_range : Written.wf ⟨.lin2alaw, .decimal 32768⟩ = false := by decide
theorem test_wf_sample_below_range : Written.wf ⟨.lin2alaw, .decimal (-32769)⟩ = false := by decide
theorem test_wf_byte_too_large :
    Written.wf ⟨.mulaw2lin, .hex2 256⟩ = false ∧ Written.wf ⟨.alaw2lin, .hex2 256⟩ = false := by decide
theorem test_wf_two_digits_for_a_sample : Written.wf ⟨.lin2mulaw, .hex2 0⟩ = false := by decide
theorem test_wf_four_digits_for_a_byte :
    Written.wf ⟨.ulaw2alaw, .hex4 0⟩ = false ∧ Written.wf ⟨.alaw2ulaw, .hex4 0⟩ = false := by decide
theorem test_wf_decimal_for_a_byte :
    Written.wf ⟨.mulaw2lin, .decimal 0⟩ = false ∧ Written.wf ⟨.alaw2lin, .decimal 0⟩ = false := by decide

/-! ### Decoding: a word of each constructor, written out from R56 -/

theorem test_decode_lin2mulaw : decode 0b0001000000000000001#19 = .instr (.lin2mulaw 0x8001#16) := by decide
theorem test_decode_mulaw2lin : decode 0b0010000000110000000#19 = .instr (.mulaw2lin 0x01#8 0x80#8) := by decide
theorem test_decode_lin2alaw : decode 0b0100111111111111111#19 = .instr (.lin2alaw 0x7FFF#16) := by decide
theorem test_decode_alaw2lin : decode 0b0111000000000000001#19 = .instr (.alaw2lin 0x80#8 0x01#8) := by decide
theorem test_decode_ulaw2alaw : decode 0b1001111111111001110#19 = .instr (.ulaw2alaw 0xFF#8 0xCE#8) := by decide
theorem test_decode_alaw2ulaw : decode 0b1010000000011101010#19 = .instr (.alaw2ulaw 0x00#8 0xEA#8) := by decide
theorem test_decode_reserved :
    decode 0b1100000000000000001#19 = .reservedSelector 6#3 ∧
    decode 0b1111111111111111111#19 = .reservedSelector 7#3 := by decide
theorem test_encode_worked_examples :
    encode (.lin2mulaw 0x03E8#16) = 0x003E8#19 ∧ encode (.alaw2ulaw 0#8 0xEA#8) = 0x500EA#19 := by decide
theorem test_decode_table_word :
    decodeTableWord 24 0x100CE = some (.mulaw2lin 0#8 0xCE#8) ∧ decodeTableWord 24 0x60000 = none := by decide
/-- The example line of R62, `LIN2MULAW 0x7F7B -> 0x80`, and a decimal sample. -/
theorem test_assemble :
    Written.assemble ⟨.lin2mulaw, .hex4 0x7F7B⟩ = some 0x07F7B#19 ∧
    Written.assemble ⟨.lin2alaw, .decimal (-16)⟩ = some 0x2FFF0#19 := by decide

/-! ### One step of each operation -/

/-- S1 and the corner case of -32768 (decision D8). -/
theorem test_lin2mulaw_zero_and_smallest :
    result (step (stateOf 0x00000#19)) = some 0x00FF#16 ∧ result (step (stateOf 0x08000#19)) = some 0x0000#16 := by
  decide
/-- The worked example of R70 and a segment edge of 95_test_vectors.md 2.1. -/
theorem test_lin2mulaw_1000_and_segment_edge :
    result (step (stateOf 0x003E8#19)) = some 0x00CE#16 ∧ result (step (stateOf 0x0FF84#19)) = some 0x006F#16 := by
  decide
/-- The worked example of R85, and the ignored bits (2.6). -/
theorem test_mulaw2lin_988_and_ignored_bits :
    result (step (stateOf 0x100CE#19)) = some 0x03DC#16 ∧ result (step (stateOf 0x1ABFF#19)) = some 0x0000#16 := by
  decide
/-- The smallest result, and the second byte of zero. -/
theorem test_mulaw2lin_smallest_and_negative_zero :
    result (step (stateOf 0x10000#19)) = some 0x8284#16 ∧ result (step (stateOf 0x1007F#19)) = some 0x0000#16 := by
  decide
/-- The worked example of R95 and the clamped sample. -/
theorem test_lin2alaw_2000_and_smallest :
    result (step (stateOf 0x207D0#19)) = some 0x00EA#16 ∧ result (step (stateOf 0x28000#19)) = some 0x002A#16 := by
  decide
/-- -16 and -256, where the set-aside reading would differ (R102). -/
theorem test_lin2alaw_takes_the_absolute_value :
    result (step (stateOf 0x2FFF0#19)) = some 0x0054#16 ∧ result (step (stateOf 0x2FF00#19)) = some 0x0045#16 := by
  decide
/-- The worked example of R110 and S5 with ignored bits (2.6). -/
theorem test_alaw2lin_2016_and_8 :
    result (step (stateOf 0x300EA#19)) = some 0x07E0#16 ∧ result (step (stateOf 0x3FFD5#19)) = some 0x0008#16 := by
  decide
/-- The smallest result, segment 1, and a μ-law byte given to the A-law decoder (R174, 2.6). -/
theorem test_alaw2lin_smallest_segment_one_and_other_law :
    result (step (stateOf 0x3002A#19)) = some 0x8200#16 ∧ result (step (stateOf 0x300C5#19)) = some 0x0108#16 ∧
    result (step (stateOf 0x300CE#19)) = some 0x01B8#16 := by decide
/-- The lookup with the open table, and the worked example with the default one. -/
theorem test_ulaw2alaw_lookup :
    result (step (stateOf 0x4FFCE#19)) = some (zext16 (Config.tblU2A 0xCE#8)) ∧
    ulaw2alaw Tables.default 0xCE#8 = 0xFA#8 := ⟨rfl, by decide⟩
/-- The lookup with the open table, and the worked example with the default one. -/
theorem test_alaw2ulaw_lookup :
    result (step (stateOf 0x500EA#19)) = some (zext16 (Config.tblA2U 0xEA#8)) ∧
    alaw2ulaw Tables.default 0xEA#8 = 0xBF#8 := ⟨rfl, by decide⟩
theorem test_reserved_selectors_are_refused :
    refusal (step (stateOf 0x60000#19)) = some (.reservedSelector 6#3) ∧
    refusal (step (stateOf 0x7FFFF#19)) = some (.reservedSelector 7#3) := by decide
theorem test_fetch_word_is_run : result (step (State.reset.withFetchWord 24 0x003E8)) = some 0x00CE#16 := by decide
/-- Steps 3 and 4 of program P1. -/
theorem test_program_p1_steps_3_and_4 :
    results (runProgram [0x003E8#19, 0x100CE#19] State.reset) = some [0x00CE#16, 0x03DC#16] := by decide
/-- The 14-bit form and the mixed reading it must not be confused with (C1). -/
theorem test_lin2mulaw14_at_the_clip : lin2mulaw14 32635 = 0x80#8 ∧ lin2mulawWith 8159 32635 = 0x9F#8 := by decide
theorem test_may_feed_matches_laws :
    mayFeed .lin2mulaw .mulaw2lin = true ∧ mayFeed .lin2mulaw .alaw2lin = false ∧
    mayFeed .ulaw2alaw .alaw2lin = true ∧ mayFeed .alaw2ulaw .alaw2ulaw = false := by decide

/-! ### Witnesses: concrete values that meet a statement's hypotheses -/

theorem test_witness_EncodeOfDecodeIsTheCommandWord :
    decode 0x1ABFF#19 = .instr (.mulaw2lin 0xAB#8 0xFF#8) ∧ decode 0x5FFFF#19 = .instr (.alaw2ulaw 0xFF#8 0xFF#8) := by
  decide
theorem test_witness_WrittenOperationsAssembleToTheirCommand :
    (-32768 : Int) ≤ -32768 ∧ (-32768 : Int) ≤ 32767 ∧ (32767 : Int) ≤ 32767 ∧
    Written.wf ⟨.lin2mulaw, .decimal 32768⟩ = false := by decide
theorem test_witness_StepRunsTheDecodedOperation :
    decode ((stateOf 0x207D0#19).op ++ (stateOf 0x207D0#19).din) = .instr (.lin2alaw 0x07D0#16) := by decide
theorem test_witness_PresentedCommandIsRunByTheNextStep : decode 0x400CE#19 = .instr (.ulaw2alaw 0#8 0xCE#8) := by
  decide
theorem test_witness_DefinedSelectorsAnswerAndReservedAreRefused :
    (stateOf 0x00000#19).op.toNat < 6 ∧ (stateOf 0x50000#19).op.toNat < 6 ∧
    6 ≤ (stateOf 0x60000#19).op.toNat ∧ 6 ≤ (stateOf 0x70000#19).op.toNat := by decide
theorem test_witness_UpperOperandBitsOfByteOperationsAreIgnored :
    (stateOf 0x1ABFF#19).op = (stateOf 0x100FF#19).op ∧ (stateOf 0x1ABFF#19).op = 1 ∧ (stateOf 0x3ABFF#19).op = 3 ∧
    (stateOf 0x4ABFF#19).op = 4 ∧ (stateOf 0x5ABFF#19).op = 5 ∧
    (stateOf 0x1ABFF#19).din.extractLsb' 0 8 = (stateOf 0x100FF#19).din.extractLsb' 0 8 ∧
    (stateOf 0x1ABFF#19).din ≠ (stateOf 0x100FF#19).din := by decide
theorem test_witness_ByteResultsAreZeroExtended :
    (stateOf 0x00000#19).op = 0 ∧ (stateOf 0x20000#19).op = 2 ∧ (stateOf 0x40000#19).op = 4 ∧
    (stateOf 0x50000#19).op = 5 := by decide
/-- The reset state agrees and steps to itself; a state that no host can make, whose `dout` disagrees, steps too. -/
theorem test_witness_StepsKeepThePortsInAgreement :
    State.reset.PortsAgree ∧ eval State.reset.op State.reset.din = some 0x00FF#16 ∧
    step State.reset = .next State.reset ∧
    (State.reset.setDout 0#16).dout ≠ State.reset.dout ∧ step (State.reset.setDout 0#16) = .next State.reset :=
  ⟨rfl, rfl, rfl, by decide, rfl⟩
/-- `dout` follows the inputs with no step taken (R50, R170): the worked example of R70, then that of R110. -/
theorem test_dout_follows_the_inputs_at_once :
    (stateOf 0x003E8#19).dout = 0x00CE#16 ∧ ((stateOf 0x003E8#19).present 0x300EA#19).dout = 0x07E0#16 := by decide
theorem test_witness_EachOperationOfASequenceGetsItsOwnResult :
    wfCommand 0x00000#19 = true ∧ wfCommand 0x5FFFF#19 = true ∧ SafeProgram [0x003E8#19, 0x100CE#19] :=
  ⟨by decide, by decide, fun c hc => by
    rcases List.mem_pair.1 hc with rfl | rfl <;> decide⟩
/-- Both ends of the first (short) interval of R77 and of the last; and a sample outside one. -/
theorem test_witness_MulawDecisionIntervals :
    exec (.lin2mulaw 3#16) State.reset = .next (State.reset.setDout 0x00FF#16) ∧
    exec (.lin2mulaw 4#16) State.reset = .next (State.reset.setDout 0x00FE#16) ∧
    exec (.lin2mulaw 0x7B7C#16) State.reset = .next (State.reset.setDout 0x0080#16) ∧
    exec (.lin2mulaw 0x7B7B#16) State.reset = .next (State.reset.setDout 0x0081#16) := ⟨rfl, rfl, rfl, rfl⟩
theorem test_witness_MulawSegmentIsTheFirstTableEnd :
    muSegment (muBiased (muMagnitude 32635 123)) = 0 ∧ muSegment (muBiased (muMagnitude 32635 124)) = 1 ∧
    muSegment (muBiased (muMagnitude 32635 16252)) = 7 := by decide
theorem test_witness_MulawClipConstantHasNoFreedomLeft :
    lin2mulawWith 31612 32767 = lin2mulaw 32767 ∧ lin2mulawWith 32635 32767 = lin2mulaw 32767 ∧
    lin2mulawWith 31611 32635 = 0x81#8 := by decide
theorem test_witness_MulawEncoderIsOntoAndKeepsTheSign :
    (0xFFFF#16).toInt = -1 ∧ (0xFFFE#16).toInt = -2 ∧ (0xFFFD#16).toInt = -3 ∧
    exec (.lin2mulaw 0xFFFD#16) State.reset = .next (State.reset.setDout 0x007F#16) :=
  ⟨by decide, by decide, by decide, rfl⟩
theorem test_witness_MulawDecoderHas255Results :
    exec (.mulaw2lin 0#8 0x7F#8) State.reset = .next (State.reset.setDout 0#16) ∧
    exec (.mulaw2lin 0#8 0xFF#8) State.reset = .next (State.reset.setDout 0#16) ∧
    exec (.mulaw2lin 0#8 0x80#8) State.reset = .next (State.reset.setDout 0x7D7C#16) := ⟨rfl, rfl, rfl⟩
/-- Both ends of the first interval of R101 and of the last. -/
theorem test_witness_AlawDecisionIntervals :
    exec (.lin2alaw 15#16) State.reset = .next (State.reset.setDout 0x00D5#16) ∧
    exec (.lin2alaw 16#16) State.reset = .next (State.reset.setDout 0x00D4#16) ∧
    exec (.lin2alaw 0x7C00#16) State.reset = .next (State.reset.setDout 0x00AA#16) ∧
    exec (.lin2alaw 0x7BFF#16) State.reset = .next (State.reset.setDout 0x00AB#16) := ⟨rfl, rfl, rfl, rfl⟩
theorem test_witness_AlawSegmentIsTheLastThreshold :
    aSegment (aScaled .abs 255) = 0 ∧ aSegment (aScaled .abs 256) = 1 ∧ aSegment (aScaled .abs 512) = 2 ∧
    aSegment (aScaled .abs 16384) = 7 := by decide
theorem test_witness_AlawEncoderIsOntoAndSymmetric :
    1 ≤ (1#16).toInt ∧ exec (.lin2alaw 1#16) State.reset = .next (State.reset.setDout 0x00D5#16) ∧
    exec (.lin2alaw (-1#16)) State.reset = .next (State.reset.setDout 0x0055#16) := ⟨by decide, rfl, rfl⟩
/-- -16 and -496 in the linear part, -512 and -31744 above it; -32768 and -17 do not differ. -/
theorem test_witness_AlawOnesComplementReadingDiffersOn127Samples :
    lin2alawWith .onesComplement (-16) = 0x55#8 ∧ lin2alawWith .onesComplement (-512) = 0x4A#8 ∧
    lin2alawWith .onesComplement (-31744) = 0x2B#8 ∧
    lin2alawWith .onesComplement (-32768) = lin2alaw (-32768) ∧
    lin2alawWith .onesComplement (-17) = lin2alaw (-17) := by decide
theorem test_witness_AlawDecoderGivesTheMiddleOfTheInterval :
    lin2alaw (0#16).toInt = 0xD5#8 ∧ lin2alaw (0x8000#16).toInt = 0x2A#8 := by decide
theorem test_witness_AlawDecoderIsOddAndInjective :
    exec (.alaw2lin 0#8 0xD5#8) State.reset = .next (State.reset.setDout 0x0008#16) ∧
    exec (.alaw2lin 0#8 0x55#8) State.reset = .next (State.reset.setDout 0xFFF8#16) ∧ 0x55#8 = 0xD5#8 ^^^ 0x80#8 :=
  ⟨rfl, rfl, by decide⟩
/-- Two pairs of tables that differ but agree on an entry. -/
theorem test_witness_OnlyTheTranscoderReadsATable :
    Tables.default.u2a ((0x00CE#16).extractLsb' 0 8) = Tables.variant.u2a ((0x00CE#16).extractLsb' 0 8) ∧
    Tables.default.u2a 0xAF#8 ≠ Tables.variant.u2a 0xAF#8 ∧
    Tables.default.a2u ((0x00EA#16).extractLsb' 0 8) = Tables.variant.a2u ((0x00EA#16).extractLsb' 0 8) ∧
    (3#3 ≠ 4) ∧ (3#3 ≠ 5) := by decide
theorem test_witness_DefaultTablesKeepSignAndOrder :
    (0xFF#8 ^^^ 0xFF#8).toNat % 128 ≤ (0x80#8 ^^^ 0xFF#8).toNat % 128 ∧
    (0xD5#8 ^^^ 0x55#8).toNat % 128 ≤ (0xAA#8 ^^^ 0x55#8).toNat % 128 := by decide
/-- Both branches of the last clause, where they meet: -3 is one of the three exceptions, -4 is not (R136). -/
theorem test_witness_EncodeThenDecodeIsIdempotent :
    (0xFFFD#16).toInt = -3 ∧ lin2mulaw (-3) = 0x7F#8 ∧ lin2mulaw (mulaw2lin (lin2mulaw (-3))) = 0xFF#8 ∧
    (0xFFFC#16).toInt = -4 ∧ lin2mulaw (-4) = 0x7E#8 ∧ lin2mulaw (mulaw2lin (lin2mulaw (-4))) = 0x7E#8 := by decide
/-- Segment 0 at 0, the clip from both sides, and -32768. -/
theorem test_witness_MulawRoundTripError :
    (2 ^ (0 + 7) ≤ min (0#16).toInt.natAbs 32635 + 132 ∧ min (0#16).toInt.natAbs 32635 + 132 < 2 ^ (0 + 8)) ∧
    (2 ^ (7 + 7) ≤ min (0x7F7C#16).toInt.natAbs 32635 + 132 ∧ min (0x7F7C#16).toInt.natAbs 32635 + 132 < 2 ^ (7 + 8)) ∧
    32636 ≤ (0x7F7C#16).toInt ∧ (0x7F7B#16).toInt.natAbs ≤ 32635 ∧ (0x8084#16).toInt ≤ -32636 ∧
    (2 ^ (7 + 7) ≤ min (0x8000#16).toInt.natAbs 32635 + 132 ∧
      min (0x8000#16).toInt.natAbs 32635 + 132 < 2 ^ (7 + 8)) := by decide
theorem test_witness_AlawRoundTripError :
    min (0x00FF#16).toInt.natAbs 32767 < 256 ∧
    (2 ^ (1 + 7) ≤ min (0x0100#16).toInt.natAbs 32767 ∧ min (0x0100#16).toInt.natAbs 32767 < 2 ^ (1 + 8)) ∧
    (2 ^ (7 + 7) ≤ min (0x8000#16).toInt.natAbs 32767 ∧ min (0x8000#16).toInt.natAbs 32767 < 2 ^ (7 + 8)) ∧
    (0x8000#16).toInt = -32768 ∧ (0x8001#16).toInt ≠ -32768 := by decide
theorem test_witness_SignThroughTheRoundTrip :
    mulaw2lin (lin2mulaw 3) = 0 ∧ mulaw2lin (lin2mulaw 4) = 8 ∧ mulaw2lin (lin2mulaw (-4)) = -8 ∧
    alaw2lin (lin2alaw 0) = 8 ∧ alaw2lin (lin2alaw (-1)) = -8 := by decide
theorem test_witness_RoundTripKeepsOrderAndSymmetry :
    (0x8000#16).toInt ≤ (0x7FFF#16).toInt ∧ 0 ≤ (0#16).toInt ∧ 1 ≤ (1#16).toInt ∧ 1 ≤ (0x7FFF#16).toInt := by decide

end Sys2Proof.Tests
end

/-! ## The operations as functions of their operand (spec 10_state.md R20) -/

namespace Sys2Proof.Machine

/-- Completing an operation, with the frame written out: the next state differs in `dout` at most. -/
theorem complete_eq (d : Word) (s : State) : complete d s = .next { s with dout := d } := rfl

/-- Every operation completes, and its result is fixed before the state is known (R20, R150). -/
theorem exec_eq_complete (i : Instr) : ∃ d : Word, ∀ s : State, exec i s = complete d s := by
  cases i with
  | lin2mulaw x => exact ⟨_, exec_lin2mulaw x⟩
  | mulaw2lin ignored y => exact ⟨_, exec_mulaw2lin ignored y⟩
  | lin2alaw x => exact ⟨_, exec_lin2alaw x⟩
  | alaw2lin ignored y => exact ⟨_, exec_alaw2lin ignored y⟩
  | ulaw2alaw ignored y => exact ⟨_, exec_ulaw2alaw ignored y⟩
  | alaw2ulaw ignored y => exact ⟨_, exec_alaw2ulaw ignored y⟩

/-- CORE's own state has one element: the structure has no field to differ in (R20). -/
theorem coreState_eq (c c' : CoreState) : c = c' := rfl

/-- Settles O10: each operation is `complete` on a result that does not mention the state, and `complete` writes
`dout` only. -/
theorem resultDependsOnTheOperationAlone : Obligations.ResultDependsOnTheOperationAlone := by
  refine ⟨fun i => ?_, coreState_eq⟩
  obtain ⟨d, hd⟩ := exec_eq_complete i
  exact ⟨d, fun s => (hd s).trans (complete_eq d s)⟩

end Sys2Proof.Machine

/-! ## Which table entries `Eval` reads (spec 20_memory.md R36)

`Eval` on each selector (30_encoding.md R55, R59), for any pair of tables: the tables stand on the right only at
selectors 4 and 5, in one entry each. -/

namespace Sys2Proof.Machine

theorem evalWith_zero (T : Tables) (din : Word) : evalWith T 0 din = some (zext16 (lin2mulaw (sint16 din))) := rfl

theorem evalWith_one (T : Tables) (din : Word) : evalWith T 1 din = some (bits16 (mulaw2lin (lowByte din))) := rfl

theorem evalWith_two (T : Tables) (din : Word) : evalWith T 2 din = some (zext16 (lin2alaw (sint16 din))) := rfl

theorem evalWith_three (T : Tables) (din : Word) : evalWith T 3 din = some (bits16 (alaw2lin (lowByte din))) := rfl

theorem evalWith_four (T : Tables) (din : Word) : evalWith T 4 din = some (zext16 (T.u2a (lowByte din))) := rfl

theorem evalWith_five (T : Tables) (din : Word) : evalWith T 5 din = some (zext16 (T.a2u (lowByte din))) := rfl

theorem evalWith_reserved (T : Tables) {op : Selector} (din : Word) (h : 6 ≤ op.toNat) :
    evalWith T op din = none := by
  unfold evalWith
  split
  case h_7 => rfl
  all_goals omega

/-- A selector of neither transcoder direction is answered without a table (R36). -/
theorem evalWith_eq_of_not_transcoder (T T' : Tables) {op : Selector} (din : Word) (h4 : op ≠ 4) (h5 : op ≠ 5) :
    evalWith T op din = evalWith T' op din := by
  obtain ⟨rfl, -⟩ | ⟨rfl, -⟩ | ⟨rfl, -⟩ | ⟨rfl, -⟩ | ⟨rfl, -⟩ | ⟨rfl, -⟩ | ⟨hres, -⟩ := decodePorts_cases op din
  · rw [evalWith_zero, evalWith_zero]
  · rw [evalWith_one, evalWith_one]
  · rw [evalWith_two, evalWith_two]
  · rw [evalWith_three, evalWith_three]
  · exact absurd rfl h4
  · exact absurd rfl h5
  · rw [evalWith_reserved T din hres, evalWith_reserved T' din hres]

/-- Settles O36: the equations of `evalWith` at 4 and 5 mention one entry of one table, the others none. -/
theorem onlyTheTranscoderReadsATable : Obligations.OnlyTheTranscoderReadsATable := by
  intro T T' op din
  refine ⟨?_, ?_, evalWith_eq_of_not_transcoder T T' din⟩
  · rintro rfl hentry
    rw [evalWith_four, evalWith_four, lowByte, hentry]
  · rintro rfl hentry
    rw [evalWith_five, evalWith_five, lowByte, hentry]

end Sys2Proof.Machine

/-! ## The wire byte of each encoder, field by field (spec 30_encoding.md R57, R60)

The fields of a plain byte's pattern, each law's mask on those fields, and each encoder's result as the masked plain
byte of its sample, for every sample. -/

namespace Sys2Proof.Machine

/-- Bit 7 of a plain byte, as a field of width 1, is its sign (R30). -/
theorem toByte_extract_sign (p : PlainByte) : p.toByte.extractLsb' 7 1 = p.sign :=
  congrArg PlainByte.sign (ofByte_toByte p)

/-- Bit 7 of a plain byte is its sign (R30). -/
@[simp] theorem toByte_getElem_seven (p : PlainByte) : p.toByte[7] = p.sign[0] := by
  simp [← toByte_extract_sign]

/-- Bits 6:4 of a plain byte are its segment (R30). -/
@[simp] theorem toByte_extract_segment (p : PlainByte) : p.toByte.extractLsb' 4 3 = p.segment :=
  congrArg PlainByte.segment (ofByte_toByte p)

/-- Bits 3:0 of a plain byte are its mantissa (R30). -/
@[simp] theorem toByte_extract_mantissa (p : PlainByte) : p.toByte.extractLsb' 0 4 = p.mantissa :=
  congrArg PlainByte.mantissa (ofByte_toByte p)

/-- The μ-law mask complements the whole byte (R57). -/
theorem muMask_eq_not (b : Byte) : muMask b = ~~~b := BitVec.xor_allOnes

/-- The μ-law mask complements each field of the plain byte (R57). -/
theorem muMask_toByte_fields (p : PlainByte) :
    (muMask p.toByte).getLsbD 7 = !p.sign.getLsbD 0 ∧
    (muMask p.toByte).extractLsb' 4 3 = ~~~p.segment ∧
    (muMask p.toByte).extractLsb' 0 4 = ~~~p.mantissa := by
  rw [muMask_eq_not]
  refine ⟨?sign, ?segment, ?mantissa⟩
  case sign => simp
  case segment => rw [BitVec.extractLsb'_not_of_lt (by decide), toByte_extract_segment]
  case mantissa => rw [BitVec.extractLsb'_not_of_lt (by decide), toByte_extract_mantissa]

/-- The A-law mask leaves the sign and inverts bits 2 and 0 of the segment and of the mantissa (R60). -/
theorem aMask_toByte_fields (p : PlainByte) :
    (aMask p.toByte).getLsbD 7 = p.sign.getLsbD 0 ∧
    (aMask p.toByte).extractLsb' 4 3 = p.segment ^^^ 0b101#3 ∧
    (aMask p.toByte).extractLsb' 0 4 = p.mantissa ^^^ 0b0101#4 := by
  refine ⟨?sign, ?segment, ?mantissa⟩
  case sign => simp [aMask, Config.aXor]
  case segment => rw [aMask, BitVec.extractLsb'_xor, toByte_extract_segment]; rfl
  case mantissa => rw [aMask, BitVec.extractLsb'_xor, toByte_extract_mantissa]; rfl

/-- The μ-law encoder puts its sample's masked plain byte on `dout`, zero-extended, with nothing else changed (R58). -/
theorem exec_lin2mulaw_eq (x : Word) (s : State) :
    exec (.lin2mulaw x) s = .next { s with dout := 0#8 ++ muMask (muPlain 32635 x.toInt).toByte } := by
  rw [exec_lin2mulaw, complete_eq, zext16_eq]; rfl

/-- The A-law encoder puts its sample's masked plain byte on `dout`, zero-extended, with nothing else changed (R58). -/
theorem exec_lin2alaw_eq (x : Word) (s : State) :
    exec (.lin2alaw x) s = .next { s with dout := 0#8 ++ aMask (aPlain .abs x.toInt).toByte } := by
  rw [exec_lin2alaw, complete_eq, zext16_eq]; rfl

/-- Bit 7 of the μ-law wire byte is the complement of "negative": 1 for a sample that is not (R57). -/
theorem bnot_muPlain_sign (limit : Nat) (x : Int) : (!(muPlain limit x).sign.getLsbD 0) = decide (0 ≤ x) := by
  simp [muPlain, PlainByte.ofNumbers, muSign, ← decide_not]

/-- The A-law sign is 1 for a sample that is not negative (R60). -/
theorem aPlain_sign (neg : ANeg) (x : Int) : (aPlain neg x).sign.getLsbD 0 = decide (0 ≤ x) := by
  simp [aPlain, PlainByte.ofNumbers, aSign]

/-- Settles O33: each encoder's result is its law's mask on the plain byte, and the mask acts on each field alone. -/
theorem wireByteLayouts : Obligations.WireByteLayouts := by
  intro x s
  constructor
  · obtain ⟨hsign, hseg, hmant⟩ := muMask_toByte_fields (muPlain 32635 x.toInt)
    exact ⟨_, _, _, rfl, exec_lin2mulaw_eq x s, muMask_eq_not _, hsign.trans (bnot_muPlain_sign _ _), hseg, hmant⟩
  · obtain ⟨hsign, hseg, hmant⟩ := aMask_toByte_fields (aPlain .abs x.toInt)
    exact ⟨_, _, _, rfl, exec_lin2alaw_eq x s, rfl, hsign.trans (aPlain_sign _ _), hseg, hmant⟩

end Sys2Proof.Machine

/-! ## The μ-law encoder in plain arithmetic (spec 40_mulaw_encode.md R70) -/

namespace Sys2Proof.Machine

/-- The complemented byte, zero-extended, as a number (R58, R76). -/
theorem zext16_muMask_ofNat {n : Nat} (h : n < 256) :
    zext16 (muMask (BitVec.ofNat 8 n)) = BitVec.ofNat 16 (n ^^^ 0xFF) := by
  have hxor : n ^^^ 0xFF < 2 ^ 8 := Nat.xor_lt_two_pow h (by decide)
  apply BitVec.eq_of_toNat_eq
  rw [zext16_toNat, muMask, Config.muInvert, BitVec.toNat_xor, BitVec.toNat_ofNat, BitVec.toNat_ofNat,
    BitVec.toNat_ofNat, Nat.mod_eq_of_lt h, Nat.mod_eq_of_lt (hxor.trans (by decide))]

/-- The word a μ-law wire byte given by its plain fields puts on `dout` (R58, R76). -/
theorem zext16_muMask_ofNumbers (b : Bool) {seg mant : Nat} (hseg : seg < 8) (hmant : mant < 16) :
    zext16 (muMask (PlainByte.ofNumbers b seg mant).toByte) =
      BitVec.ofNat 16 (((if b then 128 else 0) + 16 * seg + mant) ^^^ 0xFF) := by
  rw [ofNumbers_toByte b seg mant hseg hmant, zext16_muMask_ofNat]
  split <;> omega

/-- What the μ-law encoder puts on `dout`, from the segment of the sample's biased magnitude (R70). -/
theorem zext16_lin2mulaw {x : Int} {seg : Nat} (hseg : seg < 8)
    (lo : 2 ^ (seg + 7) ≤ min x.natAbs 32635 + 132) (hi : min x.natAbs 32635 + 132 < 2 ^ (seg + 8)) :
    zext16 (lin2mulaw x) = BitVec.ofNat 16 (((if x < 0 then 128 else 0) + 16 * seg +
      (min x.natAbs 32635 + 132) / 2 ^ (seg + 3) % 16) ^^^ 0xFF) := by
  rw [lin2mulaw_eq lo hi, zext16_muMask_ofNumbers _ hseg (Nat.mod_lt _ (by decide))]
  simp only [decide_eq_true_eq]

/-- Settles O17: the leading one stands at `seg + 7`, for the segment `seg` that the biased magnitude lies in. -/
theorem mulawEncoderFollowsItsSteps : Obligations.MulawEncoderFollowsItsSteps := by
  intro x s
  obtain ⟨seg, hseg, lo, hi⟩ :=
    exists_muSegment (b := min x.toInt.natAbs 32635 + 132) (by omega) (by omega)
  refine ⟨decode_append 0b000#3 x, seg + 7, by omega, by omega, lo, hi, ?_⟩
  rw [exec_lin2mulaw, complete_eq, sint16, zext16_lin2mulaw hseg lo hi, Nat.add_sub_cancel]

end Sys2Proof.Machine

/-! ## The μ-law decoder in plain arithmetic (spec 41_mulaw_decode.md R85) -/

namespace Sys2Proof.Machine

/-- The plain μ-law byte as a number: the wire byte complemented (R86). -/
theorem muMask_toNat (y : Byte) : (muMask y).toNat = y.toNat ^^^ 0xFF := BitVec.toNat_xor y Config.muInvert

/-- The μ-law decoder on a wire byte, from the number `p` that the plain byte is (R85 to R88). -/
theorem mulaw2lin_eq {y : Byte} {p : Nat} (hp : (muMask y).toNat = p) :
    mulaw2lin y =
      if p / 128 = 1 then -((p % 16 * 8 + 132) * 2 ^ (p / 16 % 8) - 132 : Int)
      else (p % 16 * 8 + 132) * 2 ^ (p / 16 % 8) - 132 := by
  subst hp
  obtain ⟨hsign, hseg, hmant⟩ := ofByte_numbers (muMask y)
  simp only [mulaw2lin, muRepresentative_eq, hsign, hseg, hmant, Int.natCast_emod, Nat.cast_ofNat]

/-- The command word of selector 1 and a byte operand, decoded (R51, R54). -/
theorem decode_mulaw2lin (ignored y : Byte) :
    decode (0b001#3 ++ (ignored ++ y)) = .instr (.mulaw2lin ignored y) := by
  simp [decodePorts]

/-- Settles O23: the decoder reads the fields of the complemented byte, and its representative is the plain formula. -/
theorem mulawDecoderFollowsItsSteps : Obligations.MulawDecoderFollowsItsSteps := by
  intro ignored y s
  refine ⟨decode_mulaw2lin ignored y, ?_⟩
  rw [exec_mulaw2lin, complete_eq, bits16, mulaw2lin_eq (muMask_toNat y)]

end Sys2Proof.Machine

/-! ## The A-law encoder in plain arithmetic (spec 42_alaw_encode.md R95) -/

namespace Sys2Proof.Machine

/-- A byte number under any mask, zero-extended, is the same number under the mask's number (R58). -/
theorem zext16_ofNat_xor {n : Nat} (h : n < 256) (m : Byte) :
    zext16 (BitVec.ofNat 8 n ^^^ m) = BitVec.ofNat 16 (n ^^^ m.toNat) := by
  have hxor : n ^^^ m.toNat < 2 ^ 8 := Nat.xor_lt_two_pow h m.isLt
  apply BitVec.eq_of_toNat_eq
  rw [zext16_toNat, BitVec.toNat_xor, BitVec.toNat_ofNat, BitVec.toNat_ofNat, Nat.mod_eq_of_lt h,
    Nat.mod_eq_of_lt (hxor.trans (by decide))]

/-- The word an A-law wire byte given by its plain fields puts on `dout` (R58, R99). -/
theorem zext16_aMask_ofNumbers (b : Bool) {seg mant : Nat} (hseg : seg < 8) (hmant : mant < 16) :
    zext16 (aMask (PlainByte.ofNumbers b seg mant).toByte) =
      BitVec.ofNat 16 (((if b then 128 else 0) + 16 * seg + mant) ^^^ 0x55) := by
  rw [ofNumbers_toByte b seg mant hseg hmant, aMask, zext16_ofNat_xor]
  · rfl
  · split <;> omega

/-- The segment of a scaled magnitude fits its field, and above 31 the leading one fixes it (R97). -/
theorem aSegment_spec {v : Nat} (hv : v < 4096) :
    aSegment v < 8 ∧ (32 ≤ v → 2 ^ (aSegment v + 4) ≤ v ∧ v < 2 ^ (aSegment v + 5)) := by
  obtain hlow | hhigh := Nat.lt_or_ge v 32
  · exact ⟨by rw [aSegment_eq_zero hlow]; decide, fun h => absurd hlow (Nat.not_lt.2 h)⟩
  · obtain ⟨seg, -, hseg, lo, hi⟩ := exists_aSegment hhigh hv
    rw [aSegment_eq lo hi hhigh]
    exact ⟨hseg, fun _ => ⟨lo, hi⟩⟩

/-- The mantissa fits its field (R98). -/
theorem aMantissa_lt (v : Nat) : aMantissa v < 16 := by
  rw [aMantissa_eq rfl]; split <;> exact Nat.mod_lt _ (by decide)

/-- What the A-law encoder puts on `dout`, from the segment and the mantissa of the scaled magnitude (R99). -/
theorem zext16_lin2alaw (x : Int) :
    zext16 (lin2alaw x) = BitVec.ofNat 16 (((if 0 ≤ x then 128 else 0) + 16 * aSegment (aScaled .abs x) +
      aMantissa (aScaled .abs x)) ^^^ 0x55) := by
  obtain ⟨hseg, -⟩ := aSegment_spec (aScaled_lt .abs x)
  refine (zext16_aMask_ofNumbers (aSign x) hseg (aMantissa_lt (aScaled .abs x))).trans ?_
  simp only [aSign, decide_eq_true_eq]

/-- Settles O25: the segment and the mantissa are those of the scaled magnitude, so the rule's bounds on
them are the bounds on `aSegment` and `aMantissa`. -/
theorem alawEncoderFollowsItsSteps : Obligations.AlawEncoderFollowsItsSteps := by
  intro x s
  have hv : min x.toInt.natAbs 32767 / 8 = aScaled .abs x.toInt := (aScaled_eq .abs x.toInt).symm
  obtain ⟨hseg, hlead⟩ := aSegment_spec (aScaled_lt .abs x.toInt)
  rw [hv]
  refine ⟨decode_append 0b010#3 x, _, _, hseg, aMantissa_lt _, aSegment_eq_zero, hlead, aMantissa_eq rfl, ?_⟩
  rw [exec_lin2alaw, complete_eq, sint16, zext16_lin2alaw]

end Sys2Proof.Machine

/-! ## The A-law decoder in plain arithmetic (spec 43_alaw_decode.md R110) -/

namespace Sys2Proof.Machine

/-- The plain A-law byte as a number: the wire byte under the mask (R111). -/
theorem aMask_toNat (y : Byte) : (aMask y).toNat = y.toNat ^^^ 0x55 := BitVec.toNat_xor y Config.aXor

/-- The representative of an A-law pair as a number, segment by segment (R112). -/
theorem aRepresentative_eq (seg mant : Nat) :
    (aRepresentative seg mant : Int) =
      if seg = 0 then (mant : Int) * 16 + 8
      else if seg = 1 then (mant : Int) * 16 + 264
      else ((mant : Int) * 16 + 264) * 2 ^ (seg - 1) := by
  unfold aRepresentative
  split_ifs <;> simp [Nat.shiftLeft_eq]

/-- The A-law decoder on a wire byte, from the number `p` that the plain byte is (R110 to R112). -/
theorem alaw2lin_eq {y : Byte} {p : Nat} (hp : (aMask y).toNat = p) :
    alaw2lin y =
      if p / 128 = 1 then (aRepresentative (p / 16 % 8) (p % 16) : Int)
      else -(aRepresentative (p / 16 % 8) (p % 16) : Int) := by
  subst hp
  obtain ⟨hsign, hseg, hmant⟩ := ofByte_numbers (aMask y)
  simp only [alaw2lin, hsign, hseg, hmant]

/-- The command word of selector 3 and a byte operand, decoded (R51, R54). -/
theorem decode_alaw2lin (ignored y : Byte) :
    decode (0b011#3 ++ (ignored ++ y)) = .instr (.alaw2lin ignored y) := by
  simp [decodePorts]

/-- Settles O30: the decoder reads the fields of the masked byte, and its representative is the plain formula of the
byte's segment. -/
theorem alawDecoderFollowsItsSteps : Obligations.AlawDecoderFollowsItsSteps := by
  intro ignored y s
  refine ⟨decode_alaw2lin ignored y, ?_⟩
  rw [exec_alaw2lin, complete_eq, bits16, alaw2lin_eq (aMask_toNat y), aRepresentative_eq, Int.natCast_emod,
    Nat.cast_ofNat]

end Sys2Proof.Machine

/-! ## The five vectors of the source (spec 45_laws.md R142) -/

namespace Sys2Proof.Machine

/-- The μ-law encoder on the pattern of a sample given as a number, with the frame (R58, R70). -/
theorem exec_lin2mulaw_bits16 {x : Int} (lo : -32768 ≤ x) (hi : x ≤ 32767) (s : State) :
    exec (.lin2mulaw (bits16 x)) s = .next { s with dout := zext16 (lin2mulaw x) } := by
  rw [exec_lin2mulaw, sint16_bits16 lo hi, complete_eq]

/-- The A-law encoder on the pattern of a sample given as a number, with the frame (R58, R95). -/
theorem exec_lin2alaw_bits16 {x : Int} (lo : -32768 ≤ x) (hi : x ≤ 32767) (s : State) :
    exec (.lin2alaw (bits16 x)) s = .next { s with dout := zext16 (lin2alaw x) } := by
  rw [exec_lin2alaw, sint16_bits16 lo hi, complete_eq]

/-- The vectors as R142 writes them: of the codec functions, on numbers and wire bytes. -/
theorem codec_sourceVectors :
    lin2mulaw 0 = 0xFF#8 ∧ lin2mulaw 32635 = 0x80#8 ∧ mulaw2lin 0xFF#8 = 0 ∧
    lin2alaw 0 = 0xD5#8 ∧ alaw2lin 0xD5#8 = 8 := by decide

/-- Settles O42: each operation puts its codec function's value on `dout` and changes nothing else, so the vectors of
the codec functions carry over to every state. -/
theorem sourceVectorsHold : Obligations.SourceVectorsHold := by
  intro s ignored
  obtain ⟨hmuZero, hmuClip, hmuDec, haZero, haDec⟩ := codec_sourceVectors
  refine ⟨?_, ?_, ?_, ?_, ?_⟩
  · exact (exec_lin2mulaw_bits16 (by decide) (by decide) s).trans (by rw [hmuZero]; rfl)
  · exact (exec_lin2mulaw_bits16 (by decide) (by decide) s).trans (by rw [hmuClip]; rfl)
  · rw [exec_mulaw2lin, hmuDec, complete_eq, bits16]
  · exact (exec_lin2alaw_bits16 (by decide) (by decide) s).trans (by rw [haZero]; rfl)
  · rw [exec_alaw2lin, haDec, complete_eq, bits16]

end Sys2Proof.Machine

/-! ## No exception (spec 60_exceptions.md R150) -/

namespace Sys2Proof.Machine

/-- Every operation answers a next state, on every operand and in every state (R150, R164). -/
theorem exec_total (i : Instr) (s : State) : ∃ t, exec i s = .next t := by
  obtain ⟨d, hd⟩ := exec_eq_complete i
  exact ⟨_, (hd s).trans (complete_eq d s)⟩

/-- There is no fault to raise (R150): `Fault` has no constructor, so nothing about `step` is used. -/
theorem step_ne_fault (s : State) (f : Fault) : step s ≠ .fault f := nomatch f

/-- Settles O9: every operation is `complete` on some result, and the type of faults is empty. -/
theorem coreRaisesNoException : Obligations.CoreRaisesNoException := ⟨exec_total, step_ne_fault⟩

end Sys2Proof.Machine

/-! ## Encoding and decoding (spec 30_encoding.md sections 2, 3, 5 and 6) -/

namespace Sys2Proof

/-! ### Decode and encode are inverse on defined selectors (R51, R53, R54) -/

/-- The decoder reads an operation's own selector and operand pattern as that operation (R51, R54). -/
theorem decodePorts_selector_din (i : Instr) : decodePorts i.mnemonic.selector i.din = .instr i := by
  cases i with
  | lin2mulaw x => rfl
  | lin2alaw x => rfl
  | mulaw2lin ignored y | alaw2lin ignored y | ulaw2alaw ignored y | alaw2ulaw ignored y =>
    simp [Instr.mnemonic, Mnemonic.selector, Instr.din, decodePorts]

/-- Settles O3: the encoded word's two fields are the operation's selector and operand pattern. -/
theorem decodeOfEncodeIsTheOperation : Obligations.DecodeOfEncodeIsTheOperation := fun i => by
  rw [encode, decode_append, decodePorts_selector_din]

/-- What the decoder can answer on the ports: an operation of that selector with that operand pattern, or, from
selector 6 on, the selector by name (R51, R59). -/
theorem decodePorts_spec (op : Selector) (din : Word) :
    (∃ i : Instr, decodePorts op din = .instr i ∧ i.mnemonic.selector = op ∧ i.din = din ∧ op.toNat < 6) ∨
    (decodePorts op din = .reservedSelector op ∧ 6 ≤ op.toNat) := by
  obtain ⟨rfl, h⟩ | ⟨rfl, h⟩ | ⟨rfl, h⟩ | ⟨rfl, h⟩ | ⟨rfl, h⟩ | ⟨rfl, h⟩ | ⟨hres, h⟩ := decodePorts_cases op din
  case inr.inr.inr.inr.inr.inr => exact .inr ⟨h, hres⟩
  all_goals
    refine .inl ⟨_, h, rfl, ?_, by decide⟩
    simp [Instr.din]

/-- A port pair read as an operation is that operation's selector and operand pattern (R51, R54). -/
theorem selector_din_of_decodePorts {op : Selector} {din : Word} {i : Instr} (h : decodePorts op din = .instr i) :
    i.mnemonic.selector = op ∧ i.din = din := by
  obtain ⟨j, hj, hop, hdin, -⟩ | ⟨hres, -⟩ := decodePorts_spec op din
  · cases hj.symm.trans h; exact ⟨hop, hdin⟩
  · cases hres.symm.trans h

/-- Settles O4: the decoded operation keeps both fields of the word, and the word is its two fields. -/
theorem encodeOfDecodeIsTheCommandWord : Obligations.EncodeOfDecodeIsTheCommandWord := by
  intro c i h
  obtain ⟨hop, hdin⟩ := selector_din_of_decodePorts h
  rw [encode, hop, hdin, selectorOf_append_dinOf]

/-- Settles O1: a decoder's evaluation on eight closed words. -/
theorem tableWordsDecodeToTheirOperations : Obligations.TableWordsDecodeToTheirOperations := by
  unfold Obligations.TableWordsDecodeToTheirOperations
  decide

/-! ### Mask and match (R56) -/

/-- Under the mask of R56 a command word keeps its selector and loses its operand. -/
theorem and_mask (c : CommandWord) : c &&& 0x70000#19 = selectorOf c ++ (0 : Word) := by
  conv_lhs => rw [← selectorOf_append_dinOf c, show 0x70000#19 = BitVec.allOnes 3 ++ (0 : Word) by decide]
  rw [BitVec.and_append, BitVec.and_allOnes, show dinOf c &&& (0 : Word) = 0 from BitVec.and_zero]

/-- A word's masked value names its selector and nothing else (R56). -/
theorem and_mask_eq_iff (c : CommandWord) (op : Selector) :
    c &&& 0x70000#19 = op ++ (0 : Word) ↔ selectorOf c = op := by
  rw [and_mask]
  refine ⟨fun h => ?_, fun h => by rw [h]⟩
  simpa using congrArg selectorOf h

/-- Every row of the map has the selector's mask, and its mnemonic's selector over a zero operand as its match (R56). -/
theorem opcodeMap_row {r : OpcodeRow} (h : r ∈ opcodeMap) :
    r.mask = 0x70000#19 ∧ r.pattern = r.mnemonic.selector ++ (0 : Word) := by
  revert r; decide

theorem Mnemonic.selector_injective : Function.Injective Mnemonic.selector := by
  intro m n; cases m <;> cases n <;> decide

theorem Mnemonic.selector_toNat_lt (m : Mnemonic) : m.selector.toNat < 6 := by cases m <;> decide

/-- A word decodes to an operation of a mnemonic exactly when it carries the mnemonic's selector (R51). -/
theorem decode_mnemonic_iff (c : CommandWord) (m : Mnemonic) :
    (∃ i, decode c = .instr i ∧ i.mnemonic = m) ↔ selectorOf c = m.selector := by
  constructor
  · rintro ⟨i, hi, rfl⟩
    exact (selector_din_of_decodePorts hi).1.symm
  · intro hsel
    obtain ⟨i, hi, hop, -⟩ | ⟨-, hres⟩ := decodePorts_spec (selectorOf c) (dinOf c)
    · exact ⟨i, hi, Mnemonic.selector_injective (hop.trans hsel)⟩
    · have := m.selector_toNat_lt
      rw [hsel] at hres; omega

/-- A word decodes to a reserved selector exactly when it carries that selector (R59). -/
theorem decode_reserved_iff (c : CommandWord) {op : Selector} (hop : 6 ≤ op.toNat) :
    decode c = .reservedSelector op ↔ selectorOf c = op := by
  obtain ⟨i, hi, -, -, hlt⟩ | ⟨hres, -⟩ := decodePorts_spec (selectorOf c) (dinOf c)
  · rw [decode, hi]
    refine ⟨nofun, ?_⟩
    rintro rfl; omega
  · rw [decode, hres, Decoded.reservedSelector.injEq]

/-- Settles O2: mask and match compare the selector field alone, and so does the decoder. -/
theorem maskAndMatchSelectTheOperation : Obligations.MaskAndMatchSelectTheOperation := by
  intro c
  refine ⟨fun r hr => ?_, ?_, ?_⟩
  · obtain ⟨hmask, hpattern⟩ := opcodeMap_row hr
    rw [hmask, hpattern, and_mask_eq_iff, decode_mnemonic_iff]
  · rw [decode_reserved_iff c (by decide)]; exact and_mask_eq_iff c 6#3
  · rw [decode_reserved_iff c (by decide)]; exact and_mask_eq_iff c 7#3

/-! ### The written form (R62) -/

/-- A well-formed written operation assembles to a word that decodes as its mnemonic's selector on its pattern. -/
theorem assemble_map_decode {m : Mnemonic} {o : WrittenOperand} (h : o.fits m.operandFormat = true) :
    (Written.assemble ⟨m, o⟩).map decode = some (decodePorts m.selector o.pattern) := by
  rw [Written.assemble, Written.wf, if_pos h, Option.map_some, decode_append]

/-- Four digits write any sample pattern (R62). -/
theorem hex4_pattern (w : Word) : (WrittenOperand.hex4 w.toNat).pattern = w := by
  rw [WrittenOperand.pattern, BitVec.ofNat_toNat, BitVec.setWidth_eq]

/-- Two digits write any byte, with the ignored byte 0 (R62; log 17). -/
theorem hex2_pattern (y : Byte) : (WrittenOperand.hex2 y.toNat).pattern = 0#8 ++ y :=
  (BitVec.ofNat_toNat 16 y).trans (Machine.zext16_eq y)

/-- A sample pattern fits the four-digit form, for each mnemonic that takes a sample (R62). -/
theorem hex4_fits (w : Word) : (WrittenOperand.hex4 w.toNat).fits .sample = true := decide_eq_true w.isLt

/-- A byte fits the two-digit form of a format of one byte (R62). -/
theorem hex2_fits (y : Byte) {f : Format} (hf : f ≠ .sample) : (WrittenOperand.hex2 y.toNat).fits f = true := by
  cases f with
  | sample => exact absurd rfl hf
  | mulawByte | alawByte => exact decide_eq_true y.isLt

/-- A sample number fits the decimal form (R62). -/
theorem decimal_fits {x : Int} (lo : -32768 ≤ x) (hi : x ≤ 32767) : (WrittenOperand.decimal x).fits .sample = true := by
  simp [WrittenOperand.fits, lo, hi]

/-- A byte written with two digits assembles to a word with the ignored byte 0, for each mnemonic that takes a byte. -/
theorem assemble_hex2 {m : Mnemonic} (hm : m.operandFormat ≠ .sample) (y : Byte) :
    (Written.assemble ⟨m, .hex2 y.toNat⟩).map decode = some (decodePorts m.selector (0#8 ++ y)) := by
  rw [assemble_map_decode (hex2_fits y hm), hex2_pattern]

/-- Settles O5: each form fits, so the word decodes as the mnemonic's selector on the form's pattern. -/
theorem writtenOperationsAssembleToTheirCommand : Obligations.WrittenOperationsAssembleToTheirCommand := by
  refine ⟨fun x lo hi => ?decimal, fun w => ?hex4, fun y => ?hex2, fun o ho => ?illFormed⟩
  case decimal =>
    refine ⟨BitVec.ofInt 16 x, Machine.sint16_bits16 lo hi, ?_, ?_⟩
    · exact assemble_map_decode (m := .lin2mulaw) (decimal_fits lo hi)
    · exact assemble_map_decode (m := .lin2alaw) (decimal_fits lo hi)
  case hex4 =>
    refine ⟨?_, ?_⟩
    · rw [assemble_map_decode (hex4_fits w), hex4_pattern]; rfl
    · rw [assemble_map_decode (hex4_fits w), hex4_pattern]; rfl
  case hex2 =>
    refine ⟨?_, ?_, ?_, ?_⟩
    · rw [assemble_hex2 (by decide)]; exact congrArg some (decodePorts_selector_din (.mulaw2lin 0 y))
    · rw [assemble_hex2 (by decide)]; exact congrArg some (decodePorts_selector_din (.alaw2lin 0 y))
    · rw [assemble_hex2 (by decide)]; exact congrArg some (decodePorts_selector_din (.ulaw2alaw 0 y))
    · rw [assemble_hex2 (by decide)]; exact congrArg some (decodePorts_selector_din (.alaw2ulaw 0 y))
  case illFormed => rw [Written.assemble, ho]; rfl

end Sys2Proof

/-! ## The step as `Eval` on the ports (spec 30_encoding.md section 2, 60_exceptions.md section 4) -/

namespace Sys2Proof.Machine

/-! ### The decoder and `Eval` on the same selector (R51, R55) -/

/-- An operation that the ports decode to completes with `Eval`'s value, from every state (R55). -/
theorem exec_of_decodePorts {op : Selector} {din : Word} {i : Instr} (h : decodePorts op din = .instr i) :
    ∃ d, eval op din = some d ∧ ∀ s, exec i s = complete d s := by
  obtain ⟨rfl, hi⟩ | ⟨rfl, hi⟩ | ⟨rfl, hi⟩ | ⟨rfl, hi⟩ | ⟨rfl, hi⟩ | ⟨rfl, hi⟩ | ⟨-, hi⟩ := decodePorts_cases op din <;>
    cases hi.symm.trans h
  · exact ⟨_, evalWith_zero tables din, exec_lin2mulaw din⟩
  · exact ⟨_, evalWith_one tables din, exec_mulaw2lin (highByte din) (lowByte din)⟩
  · exact ⟨_, evalWith_two tables din, exec_lin2alaw din⟩
  · exact ⟨_, evalWith_three tables din, exec_alaw2lin (highByte din) (lowByte din)⟩
  · exact ⟨_, evalWith_four tables din, exec_ulaw2alaw (highByte din) (lowByte din)⟩
  · exact ⟨_, evalWith_five tables din, exec_alaw2ulaw (highByte din) (lowByte din)⟩

/-- Everything a step can do: with a defined selector it completes with `Eval`'s value, otherwise `Eval` has none and
the step is refused by name (R55, R59, R164). -/
theorem step_cases (s : State) :
    (s.op.toNat < 6 ∧ ∃ d, eval s.op s.din = some d ∧ step s = complete d s) ∨
    (6 ≤ s.op.toNat ∧ eval s.op s.din = none ∧ step s = .refused (.reservedSelector s.op)) := by
  obtain ⟨i, hi, -, -, hlt⟩ | ⟨hres, hop⟩ := decodePorts_spec s.op s.din
  · obtain ⟨d, hd, hexec⟩ := exec_of_decodePorts hi
    exact .inl ⟨hlt, d, hd, (step_of_instr hi).trans (hexec s)⟩
  · exact .inr ⟨hop, evalWith_reserved tables s.din hop, step_of_reserved hres⟩

/-- Where `Eval` has a value, the step completes with it (R55). -/
theorem step_of_eval {s : State} {d : Word} (h : eval s.op s.din = some d) : step s = complete d s := by
  obtain ⟨-, e, he, hstep⟩ | ⟨-, hnone, -⟩ := step_cases s
  · cases he.symm.trans h; exact hstep
  · cases hnone.symm.trans h

/-- A step that answers wrote what the input ports make `dout` (R50, R55). -/
theorem step_next {s t : State} (h : step s = .next t) : t = s.setDout (doutOf s.op s.din) := by
  obtain ⟨-, d, hd, hstep⟩ | ⟨-, -, hstep⟩ := step_cases s
  · cases hstep.symm.trans h
    rw [doutOf_eq hd]
  · cases hstep.symm.trans h

/-- Settles O15: presenting and stepping both write `doutOf` of the input ports, which neither of them changes later. -/
theorem stepsKeepThePortsInAgreement : Obligations.StepsKeepThePortsInAgreement := by
  refine ⟨fun s d hs hd => hs.trans (doutOf_eq hd), fun s c => rfl, fun s t h => ?_⟩
  obtain rfl := step_next h
  refine ⟨rfl, fun hs => ?_⟩
  rw [← show s.dout = doutOf s.op s.din from hs, setDout_self]

/-- Settles O6: `step` decodes the command on the input ports. -/
theorem stepRunsTheDecodedOperation : Obligations.StepRunsTheDecodedOperation := by
  intro s i h
  exact step_of_instr ((decode_append s.op s.din).symm.trans h)

/-- Settles O14: the reset state's `dout` is `Eval` of its inputs. -/
theorem resetPortsAgree : Obligations.ResetPortsAgree := ⟨rfl, rfl⟩

/-- Settles O11: the two cases of a step are the two cases of `Eval`. -/
theorem stepIsEval : Obligations.StepIsEval := by
  intro s
  obtain ⟨-, d, hd, hstep⟩ | ⟨-, hnone, hstep⟩ := step_cases s
  · rw [hstep, hd, complete_eq]
  · rw [hstep, hnone]

/-- A step answers a next state exactly on a defined selector (R172). -/
theorem safeStep_iff (s : State) : SafeStep s ↔ s.op.toNat < 6 := by
  obtain ⟨hlt, d, -, hstep⟩ | ⟨hres, -, hstep⟩ := step_cases s
  · exact ⟨fun _ => hlt, fun _ => ⟨_, hstep⟩⟩
  · constructor
    · rintro ⟨t, ht⟩; cases hstep.symm.trans ht
    · intro hlt; omega

/-- Settles O8: the two cases of a step, told apart by the selector. -/
theorem definedSelectorsAnswerAndReservedAreRefused : Obligations.DefinedSelectorsAnswerAndReservedAreRefused := by
  intro s
  refine ⟨fun hlt => ?_, fun hres => ?_, safeStep_iff s⟩
  · obtain ⟨-, d, -, hstep⟩ | ⟨hres, -⟩ := step_cases s
    · exact ⟨d, hstep⟩
    · omega
  · obtain ⟨hlt, -⟩ | ⟨-, -, hstep⟩ := step_cases s
    · omega
    · exact hstep

/-- `Eval` of a byte operation reads `din[7:0]` alone (R54). -/
theorem eval_byteOperation {op : Selector} (hop : op = 1 ∨ op = 3 ∨ op = 4 ∨ op = 5) {din din' : Word}
    (h : lowByte din = lowByte din') : ∃ d, eval op din = some d ∧ eval op din' = some d := by
  obtain rfl | rfl | rfl | rfl := hop
  · exact ⟨_, evalWith_one tables din, by rw [h]; exact evalWith_one tables din'⟩
  · exact ⟨_, evalWith_three tables din, by rw [h]; exact evalWith_three tables din'⟩
  · exact ⟨_, evalWith_four tables din, by rw [h]; exact evalWith_four tables din'⟩
  · exact ⟨_, evalWith_five tables din, by rw [h]; exact evalWith_five tables din'⟩

/-- Settles O12: the two steps complete with one value of `Eval`, which reads the lower byte alone. -/
theorem upperOperandBitsOfByteOperationsAreIgnored : Obligations.UpperOperandBitsOfByteOperationsAreIgnored := by
  intro s t hst hop hlow
  obtain ⟨d, hs, ht⟩ := eval_byteOperation hop hlow
  exact ⟨d, step_of_eval hs, step_of_eval (hst ▸ ht)⟩

/-- `Eval` of an encoder or a transcoder is a zero-extended byte (R58). -/
theorem eval_byteResult {op : Selector} (hop : op = 0 ∨ op = 2 ∨ op = 4 ∨ op = 5) (din : Word) :
    ∃ b : Byte, eval op din = some (zext16 b) := by
  obtain rfl | rfl | rfl | rfl := hop
  · exact ⟨_, evalWith_zero tables din⟩
  · exact ⟨_, evalWith_two tables din⟩
  · exact ⟨_, evalWith_four tables din⟩
  · exact ⟨_, evalWith_five tables din⟩

/-- Settles O13: the step completes with `Eval`'s byte, and zero extension is a zero upper byte. -/
theorem byteResultsAreZeroExtended : Obligations.ByteResultsAreZeroExtended := by
  intro s hop
  obtain ⟨b, hb⟩ := eval_byteResult hop s.din
  exact ⟨b, by rw [step_of_eval hb, zext16_eq, complete_eq]⟩

/-! ### Presented commands and lists of them (R173, R177) -/

/-- The step after presenting a command with a defined selector leaves the state as presenting it did (R50, R170). -/
theorem step_present {c : CommandWord} (hc : wfCommand c = true) (s : State) :
    step (s.present c) = .next (s.present c) := by
  have hlt : (s.present c).op.toNat < 6 := of_decide_eq_true hc
  obtain ⟨t, ht⟩ := (safeStep_iff (s.present c)).2 hlt
  rw [ht, step_next ht, present_op, present_din, ← present_dout s c, setDout_self]

/-- A word that decodes to an operation has a defined selector (R51, R59). -/
theorem wfCommand_of_decode {c : CommandWord} {i : Instr} (h : decode c = .instr i) : wfCommand c = true := by
  obtain ⟨hop, -⟩ := selector_din_of_decodePorts h
  have hlt := i.mnemonic.selector_toNat_lt
  rw [hop] at hlt
  exact decide_eq_true hlt

/-- Settles O7: presenting puts the word on the ports, so the step runs what it decodes to, and `dout`
is there already. -/
theorem presentedCommandIsRunByTheNextStep : Obligations.PresentedCommandIsRunByTheNextStep := by
  intro s c
  refine ⟨command_present s c, rfl, fun i hi => ?_⟩
  have hstep : step (s.present c) = exec i (s.present c) :=
    stepRunsTheDecodedOperation (s.present c) i (by rw [← hi]; exact congrArg decode (command_present s c))
  exact ⟨hstep, hstep.symm.trans (step_present (wfCommand_of_decode hi) s)⟩

/-- The result of a command word: what its two fields make `dout` (R50). -/
def resultOf (c : CommandWord) : Word := doutOf (selectorOf c) (dinOf c)

/-- A list of commands with defined selectors ends with each command's own result, from every state (R173, R177). -/
theorem runProgram_of_safeProgram {cs : List CommandWord} (h : SafeProgram cs) (s : State) :
    ∃ t, runProgram cs s = .next (t, cs.map resultOf) ∧ t.core = s.core := by
  induction cs generalizing s with
  | nil => exact ⟨s, rfl, rfl⟩
  | cons c cs ih =>
    obtain ⟨t, ht, hcore⟩ := ih (fun e he => h e (List.mem_cons_of_mem c he)) (s.present c)
    exact ⟨t, runProgram_cons_next (step_present (h c List.mem_cons_self) s) ht, hcore⟩

/-- Settles O16: a command's result is `resultOf`, whatever was presented before it. -/
theorem eachOperationOfASequenceGetsItsOwnResult : Obligations.EachOperationOfASequenceGetsItsOwnResult :=
  ⟨resultOf, fun s _ hc => step_present hc s, fun _ s h => runProgram_of_safeProgram h s⟩

end Sys2Proof.Machine

/-! ## The transcoder's lookup and the default tables (spec 44_transcode.md) -/

namespace Sys2Proof.Machine

/-! ### The lookup, for any tables (R121, R122) -/

/-- The command word of selector 4 and a byte operand, decoded (R51, R54). -/
theorem decode_ulaw2alaw (ignored y : Byte) :
    decode (0b100#3 ++ (ignored ++ y)) = .instr (.ulaw2alaw ignored y) :=
  decodeOfEncodeIsTheOperation (.ulaw2alaw ignored y)

/-- The command word of selector 5 and a byte operand, decoded (R51, R54). -/
theorem decode_alaw2ulaw (ignored y : Byte) :
    decode (0b101#3 ++ (ignored ++ y)) = .instr (.alaw2ulaw ignored y) :=
  decodeOfEncodeIsTheOperation (.alaw2ulaw ignored y)

/-- The corner bytes and the worked example of R121, in the default table (R124). -/
theorem default_u2a_corners :
    [0xFF#8, 0x7F#8, 0x80#8, 0x00#8, 0xCE#8].map (ulaw2alaw Tables.default) =
      [0xD5#8, 0x55#8, 0xAA#8, 0x2A#8, 0xFA#8] := by decide

/-- The corner bytes and the worked example of R122, in the default table (R125). -/
theorem default_a2u_corners :
    [0xD5#8, 0x55#8, 0xAA#8, 0x2A#8, 0xEA#8].map (alaw2ulaw Tables.default) =
      [0xFE#8, 0x7E#8, 0x80#8, 0x00#8, 0xBF#8] := by decide

/-- No entry of the default table is a μ-law zero byte (R122). -/
theorem default_a2u_ne_zero_bytes (y : Byte) :
    alaw2ulaw Tables.default y ≠ 0xFF#8 ∧ alaw2ulaw Tables.default y ≠ 0x7F#8 := by
  revert y; decide +kernel

/-- Settles O34: the operation completes with the entry; the corners are the default table's. -/
theorem ulawToAlawReadsItsTable : Obligations.UlawToAlawReadsItsTable :=
  ⟨fun ignored y s => ⟨decode_ulaw2alaw ignored y, by rw [exec_ulaw2alaw, complete_eq, zext16_eq]⟩,
    default_u2a_corners⟩

/-- Settles O35: the operation completes with the entry; the corners are the default table's. -/
theorem alawToUlawReadsItsTable : Obligations.AlawToUlawReadsItsTable :=
  ⟨fun ignored y s => ⟨decode_alaw2ulaw ignored y, by rw [exec_alaw2ulaw, complete_eq, zext16_eq]⟩,
    default_a2u_corners, default_a2u_ne_zero_bytes⟩

/-! ### The default tables, byte by byte (R124 to R128) -/

/-- Settles O37: an evaluation of the two tables on the 256 bytes. -/
theorem defaultTablesExpandTheNumberTables : Obligations.DefaultTablesExpandTheNumberTables := by
  unfold Obligations.DefaultTablesExpandTheNumberTables
  decide +kernel

/-- Settles O39: an evaluation of the two double lookups on the 256 bytes. -/
theorem defaultTablesDoubleTranscoding : Obligations.DefaultTablesDoubleTranscoding := by
  unfold Obligations.DefaultTablesDoubleTranscoding
  decide +kernel

/-- Settles O40: an evaluation of lookup and composition on the 256 bytes. -/
theorem defaultTablesAreNotTheComposition : Obligations.DefaultTablesAreNotTheComposition := by
  unfold Obligations.DefaultTablesAreNotTheComposition
  decide +kernel

/-- Settles O41: an evaluation of both pairs of tables on the 256 bytes. -/
theorem variantTablesChangeFourEntries : Obligations.VariantTablesChangeFourEntries := by
  unfold Obligations.VariantTablesChangeFourEntries
  decide +kernel

/-! ### Sign and order in the default tables (R127) -/

/-- Both default tables keep wire bit 7 and commute with flipping it (R127). -/
theorem default_keeps_sign (y : Byte) :
    (Tables.default.u2a y).getLsbD 7 = y.getLsbD 7 ∧ (Tables.default.a2u y).getLsbD 7 = y.getLsbD 7 ∧
    Tables.default.u2a (y ^^^ 0x80#8) = Tables.default.u2a y ^^^ 0x80#8 ∧
    Tables.default.a2u (y ^^^ 0x80#8) = Tables.default.a2u y ^^^ 0x80#8 := by
  revert y; decide +kernel

/-- A magnitude number: the 7 bits left of a wire byte when its law's mask is taken off (R127). -/
def magnitudeNumber (mask y : Byte) : Nat := (y ^^^ mask).toNat % 128

/-- A table on magnitude numbers: number `n` as a wire byte of the one law, and the number of its entry in the other. -/
def tableOnNumbers (maskIn maskOut : Byte) (T : Byte → Byte) (n : Nat) : Nat :=
  magnitudeNumber maskOut (T (BitVec.ofNat 8 n ^^^ maskIn))

/-- A function that never falls from one number below 127 to the next never falls up to 127. -/
theorem le_of_le_succ_upto {f : Nat → Nat} (hstep : ∀ n < 127, f n ≤ f (n + 1)) {m n : Nat} (h : m ≤ n)
    (hn : n ≤ 127) : f m ≤ f n := by
  induction n, h using Nat.le_induction with
  | base => exact le_rfl
  | succ n _ ih => exact (ih (by omega)).trans (hstep n hn)

/-- What orders a table: the entry's number depends on the byte's number alone, and never falls from one number to the
next. -/
theorem magnitudeNumber_mono {maskIn maskOut : Byte} {T : Byte → Byte}
    (hT : ∀ y, magnitudeNumber maskOut (T y) = tableOnNumbers maskIn maskOut T (magnitudeNumber maskIn y))
    (hstep : ∀ n < 127, tableOnNumbers maskIn maskOut T n ≤ tableOnNumbers maskIn maskOut T (n + 1))
    {y z : Byte} (h : magnitudeNumber maskIn y ≤ magnitudeNumber maskIn z) :
    magnitudeNumber maskOut (T y) ≤ magnitudeNumber maskOut (T z) := by
  rw [hT y, hT z]
  exact le_of_le_succ_upto hstep h (Nat.le_of_lt_succ (Nat.mod_lt _ (by decide)))

/-- The default μ-law to A-law table keeps the order of magnitude numbers (R127). -/
theorem default_u2a_mono {y z : Byte} (h : magnitudeNumber 0xFF#8 y ≤ magnitudeNumber 0xFF#8 z) :
    magnitudeNumber 0x55#8 (Tables.default.u2a y) ≤ magnitudeNumber 0x55#8 (Tables.default.u2a z) :=
  magnitudeNumber_mono (by decide +kernel) (by decide +kernel) h

/-- The default A-law to μ-law table keeps the order of magnitude numbers (R127). -/
theorem default_a2u_mono {y z : Byte} (h : magnitudeNumber 0x55#8 y ≤ magnitudeNumber 0x55#8 z) :
    magnitudeNumber 0xFF#8 (Tables.default.a2u y) ≤ magnitudeNumber 0xFF#8 (Tables.default.a2u z) :=
  magnitudeNumber_mono (by decide +kernel) (by decide +kernel) h

/-- A function of bytes with an inverse off a list `L`, whose elements have twins outside `L` with the same value, has
an image of as many elements as there are bytes outside `L`. -/
theorem ncard_range_of_inverse_off {α : Type} {T : Byte → α} {U : α → Byte} {twin : Byte → Byte} {L : List Byte}
    (hL : L.Nodup) (hinv : ∀ b ∉ L, U (T b) = b) (htwin : ∀ b ∈ L, T (twin b) = T b ∧ twin b ∉ L) :
    (Set.range T).ncard = 256 - L.length := by
  have himage : Set.range T = T '' {b | b ∈ L}ᶜ := by
    refine Set.Subset.antisymm ?_ (Set.image_subset_range _ _)
    rintro _ ⟨b, rfl⟩
    by_cases hb : b ∈ L
    · obtain ⟨hval, hout⟩ := htwin b hb
      exact ⟨twin b, hout, hval⟩
    · exact ⟨b, hb, rfl⟩
  have hinj : Set.InjOn T {b | b ∈ L}ᶜ := Set.LeftInvOn.injOn hinv
  have hlist : {b | b ∈ L}.ncard = L.length := by
    rw [← List.coe_toFinset, Set.ncard_coe_finset, List.toFinset_card_of_nodup hL]
  have hbytes : Nat.card Byte = 256 :=
    (Nat.card_congr BitVec.equivFin.toEquiv).trans (Nat.card_fin (2 ^ 8))
  rw [himage, hinj.ncard_image, Set.ncard_compl, hlist, hbytes]

/-- The bytes that A-law to μ-law and back changes (R127). -/
def a2uTwins : List Byte :=
  [0x1A#8, 0x48#8, 0x4A#8, 0x4C#8, 0x4E#8, 0x6B#8, 0x79#8, 0x7B#8,
   0x9A#8, 0xC8#8, 0xCA#8, 0xCC#8, 0xCE#8, 0xEB#8, 0xF9#8, 0xFB#8]

/-- The bytes that μ-law to A-law and back changes (R127). -/
def u2aTwins : List Byte :=
  [0x71#8, 0x73#8, 0x75#8, 0x77#8, 0x79#8, 0x7B#8, 0x7D#8, 0x7F#8,
   0xF1#8, 0xF3#8, 0xF5#8, 0xF7#8, 0xF9#8, 0xFB#8, 0xFD#8, 0xFF#8]

/-- A byte that double transcoding changes shares its entry with the byte that differs in bit 0 (R127). -/
theorem default_twins :
    (∀ b ∈ u2aTwins, Tables.default.u2a (b ^^^ 0x01#8) = Tables.default.u2a b ∧ b ^^^ 0x01#8 ∉ u2aTwins) ∧
    (∀ b ∈ a2uTwins, Tables.default.a2u (b ^^^ 0x01#8) = Tables.default.a2u b ∧ b ^^^ 0x01#8 ∉ a2uTwins) := by
  decide +kernel

/-- The images of both default tables: double transcoding inverts each table off its 16 twins (R127). -/
theorem default_ncard_range :
    (Set.range Tables.default.u2a).ncard = 240 ∧ (Set.range Tables.default.a2u).ncard = 240 := by
  obtain ⟨hback, hforth⟩ := defaultTablesDoubleTranscoding
  obtain ⟨hu2a, ha2u⟩ := default_twins
  constructor
  · exact ncard_range_of_inverse_off (U := Tables.default.a2u) (L := u2aTwins) (by decide)
      (fun b hb => (hforth b).trans (if_neg hb)) hu2a
  · exact ncard_range_of_inverse_off (U := Tables.default.u2a) (L := a2uTwins) (by decide)
      (fun b hb => (hback b).trans (if_neg hb)) ha2u

/-- Settles O38: sign by evaluation, order by `magnitudeNumber_mono`, the images by the twins of R127. -/
theorem defaultTablesKeepSignAndOrder : Obligations.DefaultTablesKeepSignAndOrder :=
  ⟨default_keeps_sign, fun _ _ => ⟨default_u2a_mono, default_a2u_mono⟩, default_ncard_range⟩

end Sys2Proof.Machine

/-! ## Decision intervals (spec 40_mulaw_encode.md R77, 42_alaw_encode.md R101)

Each law cuts its magnitudes into cells, one for each segment and mantissa. A sample's wire byte is its sign with the
cell that its magnitude lies in, and a wire byte decodes to the middle of its cell. All statements about the codecs
follow from these two facts. -/

namespace Sys2Proof.Machine

/-! ### Wire bytes by their fields (R30, R57, R60) -/

theorem toByte_injective : Function.Injective PlainByte.toByte :=
  Function.LeftInverse.injective ofByte_toByte

theorem muMask_injective : Function.Injective muMask := Function.LeftInverse.injective muMask_muMask

theorem aMask_injective : Function.Injective aMask := Function.LeftInverse.injective aMask_aMask

/-- Numbers that fit their fields can be read back from the plain byte (R30). -/
theorem ofNumbers_inj {b b' : Bool} {seg seg' mant mant' : Nat} (hseg : seg < 8) (hseg' : seg' < 8)
    (hmant : mant < 16) (hmant' : mant' < 16) :
    PlainByte.ofNumbers b seg mant = PlainByte.ofNumbers b' seg' mant' ↔ b = b' ∧ seg = seg' ∧ mant = mant' := by
  constructor
  · intro h
    obtain ⟨hb, hs, hm⟩ := PlainByte.mk.inj h
    refine ⟨by simpa using congrArg (BitVec.getLsbD · 0) hb, ?_, ?_⟩
    · have := congrArg BitVec.toNat hs
      rwa [BitVec.toNat_ofNat, BitVec.toNat_ofNat, Nat.mod_eq_of_lt hseg, Nat.mod_eq_of_lt hseg'] at this
    · have := congrArg BitVec.toNat hm
      rwa [BitVec.toNat_ofNat, BitVec.toNat_ofNat, Nat.mod_eq_of_lt hmant, Nat.mod_eq_of_lt hmant'] at this
  · rintro ⟨rfl, rfl, rfl⟩; rfl

/-- Every plain byte is made of numbers that fit its fields (R30). -/
theorem exists_ofNumbers (p : PlainByte) : ∃ b, ∃ seg < 8, ∃ mant < 16, p = PlainByte.ofNumbers b seg mant := by
  refine ⟨p.sign.getLsbD 0, p.segment.toNat, p.segment.isLt, p.mantissa.toNat, p.mantissa.isLt, ?_⟩
  obtain ⟨sign, segment, mantissa⟩ := p
  have hsign : sign = BitVec.ofBool (sign.getLsbD 0) := by revert sign; decide
  simp only [PlainByte.ofNumbers, BitVec.ofNat_toNat, BitVec.setWidth_eq, ← hsign]

/-- The μ-law wire byte of a sign (true: negative), a segment and a mantissa (R57). -/
def muWire (neg : Bool) (seg mant : Nat) : Byte := muMask (PlainByte.ofNumbers neg seg mant).toByte

/-- The A-law wire byte of a sign (true: not negative), a segment and a mantissa (R60). -/
def aWire (nonneg : Bool) (seg mant : Nat) : Byte := aMask (PlainByte.ofNumbers nonneg seg mant).toByte

theorem muWire_inj {b b' : Bool} {seg seg' mant mant' : Nat} (hseg : seg < 8) (hseg' : seg' < 8)
    (hmant : mant < 16) (hmant' : mant' < 16) :
    muWire b seg mant = muWire b' seg' mant' ↔ b = b' ∧ seg = seg' ∧ mant = mant' :=
  (muMask_injective.comp toByte_injective).eq_iff.trans (ofNumbers_inj hseg hseg' hmant hmant')

theorem aWire_inj {b b' : Bool} {seg seg' mant mant' : Nat} (hseg : seg < 8) (hseg' : seg' < 8)
    (hmant : mant < 16) (hmant' : mant' < 16) :
    aWire b seg mant = aWire b' seg' mant' ↔ b = b' ∧ seg = seg' ∧ mant = mant' :=
  (aMask_injective.comp toByte_injective).eq_iff.trans (ofNumbers_inj hseg hseg' hmant hmant')

theorem exists_muWire (y : Byte) : ∃ b, ∃ seg < 8, ∃ mant < 16, y = muWire b seg mant := by
  obtain ⟨b, seg, hseg, mant, hmant, hp⟩ := exists_ofNumbers (PlainByte.ofByte (muMask y))
  exact ⟨b, seg, hseg, mant, hmant, by rw [muWire, ← hp, toByte_ofByte, muMask_muMask]⟩

theorem exists_aWire (y : Byte) : ∃ b, ∃ seg < 8, ∃ mant < 16, y = aWire b seg mant := by
  obtain ⟨b, seg, hseg, mant, hmant, hp⟩ := exists_ofNumbers (PlainByte.ofByte (aMask y))
  exact ⟨b, seg, hseg, mant, hmant, by rw [aWire, ← hp, toByte_ofByte, aMask_aMask]⟩

/-- Zero extension loses nothing (R58). -/
theorem zext16_injective : Function.Injective zext16 := fun a b h =>
  BitVec.eq_of_toNat_eq (by rw [← zext16_toNat a, ← zext16_toNat b, h])

/-- Two results written over one state are compared on `dout`. -/
theorem next_dout_inj (s : State) (a b : Word) :
    (Host.Outcome.next { s with dout := a } : Host.Outcome State Fault Refusal) = .next { s with dout := b } ↔
      a = b := by
  refine ⟨fun h => ?_, fun h => by rw [h]⟩
  exact congrArg State.dout (Host.Outcome.next.inj h)

/-! ### The cells of μ-law (R73 to R77) -/

/-- The lower end of a μ-law cell, on the biased magnitude. -/
def muLower (seg mant : Nat) : Nat := (16 + mant) * 2 ^ (seg + 3)

/-- The biased magnitudes of a segment and mantissa: a step of `2 ^ (seg + 3)` from the lower end (R77). -/
def MuCell (seg mant b : Nat) : Prop := muLower seg mant ≤ b ∧ b < muLower seg mant + 2 ^ (seg + 3)

/-- A cell is the numbers with one quotient by its step. -/
theorem muCell_iff_div (seg mant b : Nat) : MuCell seg mant b ↔ b / 2 ^ (seg + 3) = 16 + mant := by
  have hpos := Nat.two_pow_pos (seg + 3)
  rw [MuCell, muLower, Nat.div_eq_iff hpos]
  omega

/-- The ends of a segment, in steps (R74). -/
theorem segment_ends (seg : Nat) : 2 ^ (seg + 7) = 16 * 2 ^ (seg + 3) ∧ 2 ^ (seg + 8) = 32 * 2 ^ (seg + 3) := by
  constructor <;> ring

/-- The cells of a segment fill it (R74, R75). -/
theorem segment_iff_div (seg b : Nat) :
    2 ^ (seg + 7) ≤ b ∧ b < 2 ^ (seg + 8) ↔ 16 ≤ b / 2 ^ (seg + 3) ∧ b / 2 ^ (seg + 3) < 32 := by
  obtain ⟨hlo, hhi⟩ := segment_ends seg
  have hpos := Nat.two_pow_pos (seg + 3)
  rw [hlo, hhi, Nat.le_div_iff_mul_le hpos, Nat.div_lt_iff_lt_mul hpos]

/-- The cell of a biased magnitude is the one its segment and mantissa name (R74, R75, R77). -/
theorem muCell_iff {seg mant b : Nat} (lo : 132 ≤ b) (hi : b ≤ 32767) (hmant : mant < 16) :
    MuCell seg mant b ↔ muSegment b = seg ∧ muMantissa b = mant := by
  rw [muCell_iff_div]
  constructor
  · intro hdiv
    obtain ⟨hlo, hhi⟩ := (segment_iff_div seg b).2 (by omega)
    have hseg : muSegment b = seg := muSegment_eq hlo hhi
    exact ⟨hseg, by rw [muMantissa_eq hseg, hdiv]; omega⟩
  · rintro ⟨hseg, hmantissa⟩
    obtain ⟨seg', -, hlo, hhi⟩ := exists_muSegment lo hi
    obtain rfl : seg' = seg := (muSegment_eq hlo hhi).symm.trans hseg
    have hdiv := (segment_iff_div seg' b).1 ⟨hlo, hhi⟩
    rw [muMantissa_eq hseg] at hmantissa
    omega

theorem muSegment_lt {b : Nat} (lo : 132 ≤ b) (hi : b ≤ 32767) : muSegment b < 8 := by
  obtain ⟨seg, hseg, hlo, hhi⟩ := exists_muSegment lo hi
  rwa [muSegment_eq hlo hhi]

theorem muMantissa_lt (b : Nat) : muMantissa b < 16 := by
  rw [muMantissa_eq rfl]; exact Nat.mod_lt _ (by decide)

/-- The μ-law encoder's byte names the sample's sign and the cell of its biased magnitude, for any clip constant up to
the machine's (R70 to R77). -/
theorem lin2mulawWith_eq_iff {limit : Nat} (hlimit : limit ≤ 32635) {x : Int} {neg : Bool} {seg mant : Nat}
    (hseg : seg < 8) (hmant : mant < 16) :
    lin2mulawWith limit x = muWire neg seg mant ↔
      decide (x < 0) = neg ∧ MuCell seg mant (min x.natAbs limit + 132) := by
  have lo : 132 ≤ min x.natAbs limit + 132 := by omega
  have hi : min x.natAbs limit + 132 ≤ 32767 := by omega
  rw [muCell_iff lo hi hmant]
  exact muWire_inj (muSegment_lt lo hi) hseg (muMantissa_lt _) hmant

theorem lin2mulaw_eq_iff {x : Int} {neg : Bool} {seg mant : Nat} (hseg : seg < 8) (hmant : mant < 16) :
    lin2mulaw x = muWire neg seg mant ↔ decide (x < 0) = neg ∧ MuCell seg mant (min x.natAbs 32635 + 132) :=
  lin2mulawWith_eq_iff le_rfl hseg hmant

/-- Every sample has its cell, which is the encoder's answer (R70). -/
theorem exists_muCell (x : Int) :
    ∃ seg < 8, ∃ mant < 16, MuCell seg mant (min x.natAbs 32635 + 132) ∧
      lin2mulaw x = muWire (decide (x < 0)) seg mant := by
  obtain ⟨neg, seg, hseg, mant, hmant, h⟩ := exists_muWire (lin2mulaw x)
  obtain ⟨rfl, hcell⟩ := (lin2mulaw_eq_iff hseg hmant).1 h
  exact ⟨seg, hseg, mant, hmant, hcell, h⟩

/-- Two cells that share a number are one. -/
theorem MuCell.unique {seg seg' mant mant' b : Nat} (h : MuCell seg mant b) (h' : MuCell seg' mant' b)
    (hmant : mant < 16) (hmant' : mant' < 16) (lo : 132 ≤ b) (hi : b ≤ 32767) : seg = seg' ∧ mant = mant' := by
  obtain ⟨hs, hm⟩ := (muCell_iff lo hi hmant).1 h
  obtain ⟨hs', hm'⟩ := (muCell_iff lo hi hmant').1 h'
  exact ⟨hs.symm.trans hs', hm.symm.trans hm'⟩

/-- The magnitude that a μ-law pair decodes to: the middle of its cell, less the bias (R87). -/
def muLevel (seg mant : Nat) : Nat := muLower seg mant + 2 ^ (seg + 2) - 132

/-- The middle of a cell, as the decoder's formula has it (R87). -/
theorem muLower_add_half (seg mant : Nat) : muLower seg mant + 2 ^ (seg + 2) = 4 * ((33 + 2 * mant) * 2 ^ seg) := by
  rw [muLower]; ring

/-- The middle of a cell is at least the bias, so nothing is lost in `muLevel`. -/
theorem muLevel_add_bias (seg mant : Nat) : muLevel seg mant + 132 = muLower seg mant + 2 ^ (seg + 2) := by
  refine Nat.sub_add_cancel ?_
  have hmul := Nat.mul_le_mul (show 33 ≤ 33 + 2 * mant by omega) (Nat.two_pow_pos seg)
  rw [muLower_add_half]; omega

/-- The middle of a cell lies in it. -/
theorem muCell_muLevel (seg mant : Nat) : MuCell seg mant (muLevel seg mant + 132) := by
  have hstep : 2 ^ (seg + 3) = 2 * 2 ^ (seg + 2) := by ring
  have hpos := Nat.two_pow_pos (seg + 2)
  rw [MuCell, muLevel_add_bias]
  omega

/-- The μ-law decoder gives the middle of its byte's cell, with the byte's sign (R85 to R88). -/
theorem mulaw2lin_muWire (neg : Bool) {seg mant : Nat} (hseg : seg < 8) (hmant : mant < 16) :
    mulaw2lin (muWire neg seg mant) = if neg then -(muLevel seg mant : Int) else muLevel seg mant := by
  have hlevel : (muLevel seg mant : Int) = ((mant : Int) * 8 + 132) * 2 ^ seg - 132 := by
    have h := congrArg (Nat.cast (R := Int)) ((muLevel_add_bias seg mant).trans (muLower_add_half seg mant))
    push_cast at h
    linear_combination h
  rw [hlevel]
  exact mulaw2lin_ofNumbers neg hseg hmant

/-- No cell reaches above 32768, so no result is above 32124 (R89). -/
theorem muLevel_le {seg mant : Nat} (hseg : seg < 8) (hmant : mant < 16) : muLevel seg mant ≤ 32124 := by
  have hpow : 2 ^ seg ≤ 2 ^ 7 := Nat.pow_le_pow_right (by decide) (by omega)
  have hmul := Nat.mul_le_mul (show 33 + 2 * mant ≤ 63 by omega) hpow
  have hbias := muLevel_add_bias seg mant
  rw [muLower_add_half] at hbias
  omega

/-- Magnitude 0 is the middle of the first cell alone (R89). -/
theorem muLevel_eq_zero_iff {seg mant : Nat} (hmant : mant < 16) : muLevel seg mant = 0 ↔ seg = 0 ∧ mant = 0 := by
  constructor
  · intro h
    have hcell := muCell_muLevel seg mant
    rw [h] at hcell
    have hfirst : MuCell 0 0 (0 + 132) := ⟨by decide, by decide⟩
    exact hcell.unique hfirst hmant (by decide) (by decide) (by decide)
  · rintro ⟨rfl, rfl⟩; rfl

/-! ### The cells of A-law (R97 to R101) -/

/-- The length of the A-law cells of a segment: segments 0 and 1 have one step (R101). -/
def aStep (seg : Nat) : Nat := 2 ^ (max seg 1 + 3)

/-- The lower end of an A-law cell, on the clamped magnitude (R101). -/
def aLower (seg mant : Nat) : Nat := ((if seg = 0 then 0 else 16) + mant) * aStep seg

/-- The clamped magnitudes of a segment and mantissa (R101). -/
def ACell (seg mant mag : Nat) : Prop := aLower seg mant ≤ mag ∧ mag < aLower seg mant + aStep seg

/-- A cell is the numbers with one quotient by its step. -/
theorem aCell_iff_div (seg mant mag : Nat) :
    ACell seg mant mag ↔ mag / aStep seg = (if seg = 0 then 0 else 16) + mant := by
  have hpos : 0 < aStep seg := Nat.two_pow_pos _
  rw [ACell, aLower, Nat.div_eq_iff hpos]
  omega

theorem aStep_of_ne_zero {seg : Nat} (h : seg ≠ 0) : aStep seg = 2 ^ (seg + 3) := by
  rw [aStep, Nat.max_eq_left (by omega)]

/-- The segment of a scaled magnitude, as an interval (R97). -/
theorem aSegment_iff {v seg : Nat} (hv : v < 4096) :
    aSegment v = seg ↔ if seg = 0 then v < 32 else 2 ^ (seg + 4) ≤ v ∧ v < 2 ^ (seg + 5) := by
  constructor
  · rintro rfl
    obtain hlow | hhigh := Nat.lt_or_ge v 32
    · rwa [aSegment_eq_zero hlow, if_pos rfl]
    · obtain ⟨seg, hpos, -, hlo, hhi⟩ := exists_aSegment hhigh hv
      rw [aSegment_eq hlo hhi hhigh, if_neg (by omega)]
      exact ⟨hlo, hhi⟩
  · split_ifs with hzero
    · rintro hlow; rw [hzero, aSegment_eq_zero hlow]
    · rintro ⟨hlo, hhi⟩
      have hpow : 2 ^ 5 ≤ 2 ^ (seg + 4) := Nat.pow_le_pow_right (by decide) (by omega)
      exact aSegment_eq hlo hhi (hpow.trans hlo)

/-- The same interval on the clamped magnitude, which the scaling divides by 8 (R97). -/
theorem aSegment_div_eight_iff {mag seg : Nat} (hi : mag ≤ 32767) :
    aSegment (mag / 8) = seg ↔ if seg = 0 then mag < 256 else 2 ^ (seg + 7) ≤ mag ∧ mag < 2 ^ (seg + 8) := by
  have hpow (k : Nat) : 2 ^ (k + 3) = 2 ^ k * 8 := pow_add 2 k 3
  rw [aSegment_iff (by omega), hpow (seg + 4), hpow (seg + 5)]
  split_ifs <;> omega

/-- The mantissa of a scaled magnitude, from the quotient of the magnitude by the step (R98). -/
theorem aMantissa_div_eight {mag seg : Nat} (h : aSegment (mag / 8) = seg) :
    aMantissa (mag / 8) = mag / aStep seg % 16 := by
  have hdiv (k : Nat) : mag / 8 / 2 ^ k = mag / 2 ^ (k + 3) := by
    rw [Nat.div_div_eq_div_mul, show 8 * 2 ^ k = 2 ^ (k + 3) by ring]
  rw [aMantissa_eq h, aStep]
  split_ifs with hlow
  · rw [Nat.max_eq_right (by omega), ← hdiv 1, pow_one]
  · rw [Nat.max_eq_left (by omega), ← hdiv seg]

/-- The segment of a magnitude, from its quotient by the step: the cells of a segment fill it (R97, R98). -/
theorem aSegment_iff_div {mag seg : Nat} (hi : mag ≤ 32767) :
    aSegment (mag / 8) = seg ↔
      (if seg = 0 then 0 else 16) ≤ mag / aStep seg ∧ mag / aStep seg < (if seg = 0 then 0 else 16) + 16 := by
  rw [aSegment_div_eight_iff hi]
  split_ifs with hzero
  · subst hzero
    rw [show aStep 0 = 16 from rfl]; omega
  · rw [aStep_of_ne_zero hzero, segment_iff_div]

/-- The cell of a clamped magnitude is the one its segment and mantissa name (R97, R98, R101). -/
theorem aCell_iff {seg mant mag : Nat} (hi : mag ≤ 32767) (hmant : mant < 16) :
    ACell seg mant mag ↔ aSegment (mag / 8) = seg ∧ aMantissa (mag / 8) = mant := by
  rw [aCell_iff_div]
  constructor
  · intro hdiv
    have hseg : aSegment (mag / 8) = seg := (aSegment_iff_div hi).2 (by omega)
    refine ⟨hseg, ?_⟩
    rw [aMantissa_div_eight hseg, hdiv]
    split_ifs <;> omega
  · rintro ⟨hseg, hmantissa⟩
    have hdiv := (aSegment_iff_div hi).1 hseg
    rw [aMantissa_div_eight hseg] at hmantissa
    split_ifs at hdiv ⊢ <;> omega

theorem aSegment_lt {v : Nat} (hv : v < 4096) : aSegment v < 8 := (aSegment_spec hv).1

/-- The A-law encoder's byte names the sample's sign and the cell of its clamped magnitude, for both readings of a
negative sample (R95 to R102). -/
theorem lin2alawWith_eq_iff {reading : ANeg} {x : Int} {nonneg : Bool} {seg mant : Nat}
    (hseg : seg < 8) (hmant : mant < 16) :
    lin2alawWith reading x = aWire nonneg seg mant ↔
      decide (0 ≤ x) = nonneg ∧ ACell seg mant (min (aMagnitude reading x) 32767) := by
  rw [aCell_iff (Nat.min_le_right _ _) hmant, ← aScaled_eq]
  exact aWire_inj (aSegment_lt (aScaled_lt reading x)) hseg (aMantissa_lt _) hmant

theorem lin2alaw_eq_iff {x : Int} {nonneg : Bool} {seg mant : Nat} (hseg : seg < 8) (hmant : mant < 16) :
    lin2alaw x = aWire nonneg seg mant ↔ decide (0 ≤ x) = nonneg ∧ ACell seg mant (min x.natAbs 32767) :=
  lin2alawWith_eq_iff (reading := .abs) hseg hmant

/-- Every sample has its cell, which is the encoder's answer (R95). -/
theorem exists_aCell (x : Int) :
    ∃ seg < 8, ∃ mant < 16, ACell seg mant (min x.natAbs 32767) ∧ lin2alaw x = aWire (decide (0 ≤ x)) seg mant := by
  obtain ⟨nonneg, seg, hseg, mant, hmant, h⟩ := exists_aWire (lin2alaw x)
  obtain ⟨rfl, hcell⟩ := (lin2alaw_eq_iff hseg hmant).1 h
  exact ⟨seg, hseg, mant, hmant, hcell, h⟩

/-- Two cells that share a number are one. -/
theorem ACell.unique {seg seg' mant mant' mag : Nat} (h : ACell seg mant mag) (h' : ACell seg' mant' mag)
    (hmant : mant < 16) (hmant' : mant' < 16) (hi : mag ≤ 32767) : seg = seg' ∧ mant = mant' := by
  obtain ⟨hs, hm⟩ := (aCell_iff hi hmant).1 h
  obtain ⟨hs', hm'⟩ := (aCell_iff hi hmant').1 h'
  exact ⟨hs.symm.trans hs', hm.symm.trans hm'⟩

/-- The magnitude that an A-law pair decodes to: the middle of its cell (R112). -/
def aLevel (seg mant : Nat) : Nat := aLower seg mant + aStep seg / 2

/-- Half a step, as a power of two. -/
theorem aStep_eq (seg : Nat) : aStep seg = 2 * 2 ^ (max seg 1 + 2) := by rw [aStep]; ring

/-- The middle of a cell lies in it. -/
theorem aCell_aLevel (seg mant : Nat) : ACell seg mant (aLevel seg mant) := by
  have hpos := Nat.two_pow_pos (max seg 1 + 2)
  have hstep := aStep_eq seg
  rw [ACell, aLevel]
  omega

/-- The representative of R112 is the middle of the cell. -/
theorem aRepresentative_eq_aLevel (seg mant : Nat) : aRepresentative seg mant = aLevel seg mant := by
  have hrep := aRepresentative_eq seg mant
  match seg with
  | 0 | 1 => simp [aLevel, aLower, aStep] at hrep ⊢; omega
  | seg + 2 =>
    have hlevel : aLevel (seg + 2) mant = (mant * 16 + 264) * 2 ^ (seg + 1) := by
      rw [aLevel, aStep_eq, Nat.mul_div_cancel_left _ (by decide), aLower, aStep, Nat.max_eq_left (by omega)]
      simp
      ring
    rw [hlevel]
    simp at hrep
    exact_mod_cast hrep

/-- The A-law decoder gives the middle of its byte's cell, with the byte's sign (R110 to R113). -/
theorem alaw2lin_aWire (nonneg : Bool) {seg mant : Nat} (hseg : seg < 8) (hmant : mant < 16) :
    alaw2lin (aWire nonneg seg mant) = if nonneg then (aLevel seg mant : Int) else -(aLevel seg mant : Int) := by
  rw [← aRepresentative_eq_aLevel]
  exact alaw2lin_ofNumbers nonneg hseg hmant

/-- A step is at least 16, so a middle is at least 8 (R113). -/
theorem eight_le_aLevel (seg mant : Nat) : 8 ≤ aLevel seg mant := by
  have hpow : 2 ^ 3 ≤ 2 ^ (max seg 1 + 2) := Nat.pow_le_pow_right (by decide) (by omega)
  have := aStep_eq seg
  rw [aLevel]; omega

/-- No cell reaches above 32767, and the last step is 1024 (R113). -/
theorem aLevel_le {seg mant : Nat} (hseg : seg < 8) (hmant : mant < 16) : aLevel seg mant ≤ 32256 := by
  have hpow : 2 ^ (max seg 1 + 2) ≤ 2 ^ 9 := Nat.pow_le_pow_right (by decide) (by omega)
  have hlower : aLower seg mant ≤ 31 * aStep seg := Nat.mul_le_mul_right _ (by split_ifs <;> omega)
  have := aStep_eq seg
  rw [aLevel]; omega

end Sys2Proof.Machine

/-! ## μ-law (spec 40_mulaw_encode.md section 3, 41_mulaw_decode.md section 2) -/

namespace Sys2Proof.Machine

/-! ### The encoder's other formulations (R72, R74, R77, R79) -/

/-- The μ-law encoder puts its sample's wire byte on `dout`, zero-extended, with nothing else changed (R58). -/
theorem exec_lin2mulaw_byte (x : Word) (s : State) :
    exec (.lin2mulaw x) s = .next { s with dout := 0#8 ++ lin2mulaw x.toInt } := exec_lin2mulaw_eq x s

/-- Settles O18: the encoder's byte names its cell, and the interval of the statement is the cell less the bias. -/
theorem mulawDecisionIntervals : Obligations.MulawDecisionIntervals := by
  intro x s seg mant hseg hmant
  have hwire := zext16_muMask_ofNumbers (decide (x.toInt < 0)) hseg hmant
  have hbyte := lin2mulaw_eq_iff (x := x.toInt) (neg := decide (x.toInt < 0)) hseg hmant
  simp only [decide_eq_true_eq] at hwire
  rw [← hwire, exec_lin2mulaw, complete_eq, next_dout_inj, zext16_injective.eq_iff, sint16]
  refine (hbyte.trans (and_iff_right rfl)).trans ?_
  have hlower : (16 + mant : Int) * 2 ^ (seg + 3) = muLower seg mant := by rw [muLower]; push_cast; rfl
  have hupper : (17 + mant : Int) * 2 ^ (seg + 3) = muLower seg mant + (2 ^ (seg + 3) : Nat) := by
    rw [← hlower]; push_cast; ring
  rw [MuCell, hlower, hupper]
  omega

/-- The table of upper ends as a formula (R27, R74). -/
theorem muSegEnd_getD {i : Nat} (hi : i < 8) : Config.muSegEnd.getD i 0 = 2 ^ (i + 8) - 1 := by
  revert i; decide

/-- The segment is the first whose upper end is not passed (R74). -/
theorem muSegment_eq_iff_first {b i : Nat} (lo : 132 ≤ b) (hi : b ≤ 32767) :
    muSegment b = i ↔ b < 2 ^ (i + 8) ∧ ∀ j < i, 2 ^ (j + 8) ≤ b := by
  obtain ⟨seg, -, hlo, hhi⟩ := exists_muSegment lo hi
  have hmono {m n : Nat} (h : m ≤ n) : 2 ^ m ≤ 2 ^ n := Nat.pow_le_pow_right (by decide) h
  rw [muSegment_eq hlo hhi]
  constructor
  · rintro rfl
    exact ⟨hhi, fun j hj => (hmono (by omega)).trans hlo⟩
  · rintro ⟨hend, hbefore⟩
    obtain hlt | heq | hgt := Nat.lt_trichotomy seg i
    · exact absurd hhi (Nat.not_lt.2 (hbefore seg hlt))
    · exact heq
    · exact absurd hend (Nat.not_lt.2 ((hmono (by omega)).trans hlo))

/-- Settles O19: an entry of the table is one less than the power of two that ends the segment. -/
theorem mulawSegmentIsTheFirstTableEnd : Obligations.MulawSegmentIsTheFirstTableEnd := by
  intro x i hi b
  obtain ⟨hlo, hhi⟩ : 132 ≤ b ∧ b ≤ 32767 := muBiased_range x.toInt
  have hend (j : Nat) (hj : j < 8) : Config.muSegEnd.getD j 0 < b ↔ 2 ^ (j + 8) ≤ b := by
    have := Nat.two_pow_pos (j + 8)
    rw [muSegEnd_getD hj]; omega
  rw [muSegment_eq_iff_first hlo hhi, ← Nat.not_lt, hend i hi, Nat.not_le]
  exact and_congr_right fun _ => forall₂_congr fun j hj => (hend j (hj.trans hi)).symm

/-- The last cell of μ-law starts at 31612 less the bias (R72, R77). -/
theorem muCell_last {b : Nat} (lo : 31744 ≤ b) (hi : b ≤ 32767) : MuCell 7 15 b :=
  ⟨lo, Nat.lt_succ_of_le hi⟩

/-- Any clip constant of the last cell gives the machine's encoder (R72). -/
theorem lin2mulawWith_eq {limit : Nat} (lo : 31612 ≤ limit) (hi : limit ≤ 32635) (x : Int) :
    lin2mulawWith limit x = lin2mulaw x := by
  obtain hgt | hle := Nat.lt_or_ge limit x.natAbs
  · have hcell (l : Nat) (hl : 31612 ≤ l) (hl' : l ≤ 32635) : lin2mulawWith l x = muWire (decide (x < 0)) 7 15 :=
      (lin2mulawWith_eq_iff hl' (by decide) (by decide)).2 ⟨rfl, muCell_last (by omega) (by omega)⟩
    exact (hcell limit lo hi).trans (hcell 32635 (by decide) le_rfl).symm
  · have hmag : muMagnitude limit x = muMagnitude Config.muClip x := by
      simp only [muMagnitude, clip, magnitude, Config.muClip]; omega
    rw [lin2mulaw, lin2mulawWith, lin2mulawWith, muPlain, muPlain, hmag]

/-- Settles O20: from 31612 on, the samples that a clip constant can touch lie in the last cell. -/
theorem mulawClipConstantHasNoFreedomLeft : Obligations.MulawClipConstantHasNoFreedomLeft := by
  intro limit lo hi x s
  rw [lin2mulawWith_eq lo hi, exec_lin2mulaw_byte]

/-- The 14-bit formulation gives the machine's encoder: its biased magnitude is the other's by 4, and what it clips
apart lies in the last cell (R79). -/
theorem lin2mulaw14_eq (x : Int) : lin2mulaw14 x = lin2mulaw x := by
  have hshift : clip 8159 (magnitude x >>> 2) + 33 = min (x.natAbs / 4) 8159 + 33 := by
    rw [clip, magnitude, Nat.shiftRight_eq_div_pow]
  obtain hclip | hunclip := Nat.lt_or_ge 32635 x.natAbs
  · have hbyte : lin2mulaw x = muWire (decide (x < 0)) 7 15 :=
      (lin2mulaw_eq_iff (by decide) (by decide)).2 ⟨rfl, muCell_last (by omega) (by omega)⟩
    rw [hbyte, lin2mulaw14, hshift, if_pos (by omega)]
    rfl
  · obtain ⟨seg, -, hlo, hhi⟩ := exists_muSegment (b := min x.natAbs 32635 + 132) (by omega) (by omega)
    have hquarter : min (x.natAbs / 4) 8159 + 33 = (min x.natAbs 32635 + 132) / 4 := by omega
    have hpow (k : Nat) : 2 ^ (k + 2) = 4 * 2 ^ k := by ring
    have hmsb : msb ((min x.natAbs 32635 + 132) / 4) = seg + 5 := by
      have hlower : 2 ^ (seg + 7) = 4 * 2 ^ (seg + 5) := hpow (seg + 5)
      have hupper : 2 ^ (seg + 8) = 4 * 2 ^ (seg + 5 + 1) := hpow (seg + 6)
      exact msb_eq (by omega) (by omega)
    rw [lin2mulaw_eq hlo hhi, lin2mulaw14, hshift, hquarter, if_neg (by omega), hmsb, Nat.add_sub_cancel,
      Nat.shiftRight_eq_div_pow, Nat.div_div_eq_div_mul, ← hpow (seg + 1), show (0xF : Nat) = 2 ^ 4 - 1 from rfl,
      Nat.and_two_pow_sub_one_eq_mod]
    rfl

/-- Settles O22: the two formulations are one function. -/
theorem fourteenBitFormulationIsTheMulawEncoder : Obligations.FourteenBitFormulationIsTheMulawEncoder := by
  intro x s
  rw [lin2mulaw14_eq, exec_lin2mulaw_byte]

/-! ### From the companded side (R89, R135) -/

/-- The first cell is the samples from -3 to 3 (R77). -/
theorem muCell_zero_iff (x : Int) : MuCell 0 0 (min x.natAbs 32635 + 132) ↔ -3 ≤ x ∧ x ≤ 3 := by
  rw [MuCell, show muLower 0 0 = 128 from rfl]
  omega

/-- The second byte of zero is reached from -3 to -1 (R78). -/
theorem lin2mulaw_eq_7F_iff (x : Int) : lin2mulaw x = 0x7F#8 ↔ -3 ≤ x ∧ x < 0 := by
  rw [show 0x7F#8 = muWire true 0 0 from rfl, lin2mulaw_eq_iff (by decide) (by decide), muCell_zero_iff,
    decide_eq_true_eq]
  omega

/-- The first byte of zero is reached from 0 to 3 (R78). -/
theorem lin2mulaw_eq_FF_iff (x : Int) : lin2mulaw x = 0xFF#8 ↔ 0 ≤ x ∧ x ≤ 3 := by
  rw [show 0xFF#8 = muWire false 0 0 from rfl, lin2mulaw_eq_iff (by decide) (by decide), muCell_zero_iff,
    decide_eq_false_iff_not]
  omega

/-- A byte decodes into its own cell, and its sign is lost only where the result is 0 (R135). -/
theorem lin2mulaw_mulaw2lin (y : Byte) : lin2mulaw (mulaw2lin y) = if y = 0x7F#8 then 0xFF#8 else y := by
  obtain ⟨neg, seg, hseg, mant, hmant, rfl⟩ := exists_muWire y
  have hle := muLevel_le hseg hmant
  have hbyte : muWire neg seg mant = 0x7F#8 ↔ neg = true ∧ muLevel seg mant = 0 := by
    rw [show 0x7F#8 = muWire true 0 0 from rfl, muWire_inj hseg (by decide) hmant (by decide),
      muLevel_eq_zero_iff hmant]
  simp only [hbyte, mulaw2lin_muWire neg hseg hmant]
  split_ifs with hneg hzero hzero
  · rw [hzero.2, lin2mulaw_eq_FF_iff]; decide
  · refine (lin2mulaw_eq_iff hseg hmant).2 ⟨?_, ?_⟩
    · have hpos : muLevel seg mant ≠ 0 := fun h => hzero ⟨hneg, h⟩
      rw [hneg, decide_eq_true_eq]; omega
    · rw [Int.natAbs_neg, Int.natAbs_natCast, Nat.min_eq_left (by omega)]
      exact muCell_muLevel seg mant
  · exact absurd hzero.1 hneg
  · refine (lin2mulaw_eq_iff hseg hmant).2 ⟨?_, ?_⟩
    · rw [Bool.eq_false_of_not_eq_true hneg, decide_eq_false_iff_not]; omega
    · rw [Int.natAbs_natCast, Nat.min_eq_left (by omega)]
      exact muCell_muLevel seg mant

/-- No μ-law result is beyond 32124 (R89). -/
theorem natAbs_mulaw2lin_le (y : Byte) : (mulaw2lin y).natAbs ≤ 32124 := by
  obtain ⟨neg, seg, hseg, mant, hmant, rfl⟩ := exists_muWire y
  have hle := muLevel_le hseg hmant
  rw [mulaw2lin_muWire neg hseg hmant]
  split_ifs <;> omega

/-- A μ-law result is a sample, so its pattern reads back as it (R29). -/
theorem sint16_bits16_mulaw2lin (y : Byte) : sint16 (bits16 (mulaw2lin y)) = mulaw2lin y := by
  have := natAbs_mulaw2lin_le y
  exact sint16_bits16 (by omega) (by omega)

/-- The two bytes of zero (R88, R89). -/
theorem mulaw2lin_zero_bytes : mulaw2lin 0x7F#8 = 0 ∧ mulaw2lin 0xFF#8 = 0 := by decide

/-- Only the two bytes of zero decode to one sample (R89). -/
theorem mulaw2lin_eq_iff (y z : Byte) :
    mulaw2lin y = mulaw2lin z ↔ y = z ∨ (y = 0x7F#8 ∧ z = 0xFF#8) ∨ (y = 0xFF#8 ∧ z = 0x7F#8) := by
  constructor
  · intro h
    have hback := congrArg lin2mulaw h
    rw [lin2mulaw_mulaw2lin, lin2mulaw_mulaw2lin] at hback
    split_ifs at hback with hy hz hz
    · exact .inl (hy.trans hz.symm)
    · exact .inr (.inl ⟨hy, hback.symm⟩)
    · exact .inr (.inr ⟨hback, hz⟩)
    · exact .inl hback
  · obtain ⟨hneg, hpos⟩ := mulaw2lin_zero_bytes
    rintro (rfl | ⟨rfl, rfl⟩ | ⟨rfl, rfl⟩)
    · rfl
    · rw [hneg, hpos]
    · rw [hneg, hpos]

/-- The decoder's operation, with its result on `dout` (R58, R85). -/
theorem dout_of_exec_mulaw2lin {ignored y : Byte} {s t : State} (h : exec (.mulaw2lin ignored y) s = .next t) :
    t.dout = bits16 (mulaw2lin y) :=
  (complete_next ((exec_mulaw2lin ignored y s).symm.trans h)).1

/-- Patterns of two results are equal exactly when the results are. -/
theorem bits16_mulaw2lin_inj (y z : Byte) :
    bits16 (mulaw2lin y) = bits16 (mulaw2lin z) ↔ mulaw2lin y = mulaw2lin z := by
  refine ⟨fun h => ?_, fun h => by rw [h]⟩
  rw [← sint16_bits16_mulaw2lin y, h, sint16_bits16_mulaw2lin]

/-- The encoder inverts the decoder's patterns off 0x7F, whose result is that of 0xFF (R89). -/
theorem ncard_range_mulaw2lin : (Set.range fun y => bits16 (mulaw2lin y)).ncard = 255 := by
  refine ncard_range_of_inverse_off (U := fun w => lin2mulaw (sint16 w)) (twin := fun _ => 0xFF#8) (L := [0x7F#8])
    (by decide) (fun b hb => ?_) (by decide +kernel)
  rw [sint16_bits16_mulaw2lin, lin2mulaw_mulaw2lin, if_neg (by simpa using hb)]

/-- Settles O24: results are compared as samples, and counted as the image of the bytes. -/
theorem mulawDecoderHas255Results : Obligations.MulawDecoderHas255Results := by
  refine ⟨fun ign ign' y z s t u v ht hv => ?_, fun ign s => ?_, ?_⟩
  · rw [dout_of_exec_mulaw2lin ht, dout_of_exec_mulaw2lin hv, bits16_mulaw2lin_inj, mulaw2lin_eq_iff]
  · obtain ⟨hzero, -⟩ := mulaw2lin_zero_bytes
    rw [exec_mulaw2lin, hzero]; rfl
  · rw [← ncard_range_mulaw2lin]
    congr 1
    ext d
    constructor
    · rintro ⟨ign, y, s, t, ht, rfl⟩
      exact ⟨y, (dout_of_exec_mulaw2lin ht).symm⟩
    · rintro ⟨y, rfl⟩
      exact ⟨0, y, State.reset, _, exec_mulaw2lin 0 y State.reset, rfl⟩

/-- Every byte is the encoder's answer to some sample: its own decoded sample, and -1 for 0x7F (R78). -/
theorem exists_sample_mulaw (y : Byte) : ∃ x : Word, lin2mulaw x.toInt = y := by
  by_cases hy : y = 0x7F#8
  · exact ⟨-1, by rw [hy, lin2mulaw_eq_7F_iff]; decide⟩
  · refine ⟨bits16 (mulaw2lin y), ?_⟩
    rw [← sint16, sint16_bits16_mulaw2lin, lin2mulaw_mulaw2lin, if_neg hy]

/-- Settles O21: onto by decoding, zero and its neighbours by the first cell, bit 7 by the wire layout (R57). -/
theorem mulawEncoderIsOntoAndKeepsTheSign : Obligations.MulawEncoderIsOntoAndKeepsTheSign := by
  refine ⟨fun y => ?onto, fun s => ⟨?zero, fun x hx => ?negative⟩, fun x s t ht => ?sign⟩
  case onto =>
    obtain ⟨x, rfl⟩ := exists_sample_mulaw y
    exact ⟨x, exec_lin2mulaw_byte x⟩
  case zero =>
    rw [exec_lin2mulaw_byte, (lin2mulaw_eq_FF_iff _).2 (by decide)]; rfl
  case negative =>
    rw [exec_lin2mulaw_byte, (lin2mulaw_eq_7F_iff _).2 (by omega)]; rfl
  case sign =>
    obtain ⟨⟨-, -, y, -, hexec, -, hbit, -⟩, -⟩ := wireByteLayouts x s
    cases hexec.symm.trans ht
    rw [BitVec.getLsbD_append, if_pos (by decide), hbit, decide_eq_true_eq]

end Sys2Proof.Machine

/-! ## A-law (spec 42_alaw_encode.md section 3, 43_alaw_decode.md section 2) -/

namespace Sys2Proof.Machine

/-! ### The encoder's intervals and its search (R97, R101) -/

/-- The A-law encoder puts its sample's wire byte on `dout`, zero-extended, with nothing else changed (R58). -/
theorem exec_lin2alaw_byte (x : Word) (s : State) :
    exec (.lin2alaw x) s = .next { s with dout := 0#8 ++ lin2alaw x.toInt } := exec_lin2alaw_eq x s

/-- A cell with both its ends, as R101 writes it. -/
theorem aCell_iff_ends (seg mant mag : Nat) :
    ACell seg mant mag ↔
      if seg = 0 then 16 * mant ≤ mag ∧ mag ≤ 16 * mant + 15
      else (16 + mant) * 2 ^ (seg + 3) ≤ mag ∧ mag ≤ (17 + mant) * 2 ^ (seg + 3) - 1 := by
  rw [ACell, aLower]
  split_ifs with hzero
  · rw [hzero, show aStep 0 = 16 from rfl]; omega
  · have hupper : (17 + mant) * 2 ^ (seg + 3) = (16 + mant) * 2 ^ (seg + 3) + 2 ^ (seg + 3) := by ring
    have hpos := Nat.two_pow_pos (seg + 3)
    rw [aStep_of_ne_zero hzero, hupper]; omega

/-- Settles O26: the encoder's byte names its cell, and the intervals of the statement are the cells. -/
theorem alawDecisionIntervals : Obligations.AlawDecisionIntervals := by
  intro x s seg mant hseg hmant mag
  have hwire := zext16_aMask_ofNumbers (decide (0 ≤ x.toInt)) hseg hmant
  have hbyte := lin2alaw_eq_iff (x := x.toInt) (nonneg := decide (0 ≤ x.toInt)) hseg hmant
  simp only [decide_eq_true_eq] at hwire
  rw [← hwire, exec_lin2alaw, complete_eq, next_dout_inj, zext16_injective.eq_iff, sint16, ← aCell_iff_ends]
  exact hbyte.trans (and_iff_right rfl)

/-- The table of thresholds as a formula (R10, R97). -/
theorem aThr_getD {i : Nat} (hi : i < 8) : Config.aThr.getD i 0 = if i = 0 then 0 else 2 ^ (i + 4) := by
  revert i; decide

/-- The segment is the last whose threshold is reached (R97). -/
theorem aSegment_eq_iff_last {v i : Nat} (hv : v < 4096) (hi : i < 8) :
    aSegment v = i ↔ (if i = 0 then 0 else 2 ^ (i + 4)) ≤ v ∧ ∀ j, i < j → j < 8 → v < 2 ^ (j + 4) := by
  have hmono {m n : Nat} (h : m ≤ n) : 2 ^ m ≤ 2 ^ n := Nat.pow_le_pow_right (by decide) h
  have hnext : v < 2 ^ (i + 5) ↔ ∀ j, i < j → j < 8 → v < 2 ^ (j + 4) := by
    constructor
    · exact fun h j hij _ => h.trans_le (hmono (by omega))
    · intro h
      obtain hlast | hinner := Nat.lt_or_ge i 7
      · exact h (i + 1) (by omega) (by omega)
      · exact hv.trans_le (hmono (m := 12) (by omega))
  rw [← hnext, aSegment_iff hv]
  split_ifs with hzero
  · rw [hzero]; omega
  · exact Iff.rfl

/-- Settles O27: an entry of the table after the first is the power of two that its segment starts at. -/
theorem alawSegmentIsTheLastThreshold : Obligations.AlawSegmentIsTheLastThreshold := by
  intro x i hi v
  have hlater : (∀ j, i < j → j < 8 → v < Config.aThr.getD j 0) ↔ ∀ j, i < j → j < 8 → v < 2 ^ (j + 4) :=
    forall₃_congr fun j hij hj => by rw [aThr_getD hj, if_neg (by omega)]
  rw [aSegment_eq_iff_last (aScaled_lt .abs x.toInt) hi, aThr_getD hi, hlater]

/-! ### From the companded side (R103, R113, R135) -/

/-- A byte decodes into its own cell, with its own sign (R135). -/
theorem lin2alaw_alaw2lin (y : Byte) : lin2alaw (alaw2lin y) = y := by
  obtain ⟨nonneg, seg, hseg, mant, hmant, rfl⟩ := exists_aWire y
  have hle := aLevel_le hseg hmant
  have hge := eight_le_aLevel seg mant
  have hcell : ACell seg mant (min (aLevel seg mant) 32767) := by
    rw [Nat.min_eq_left (by omega)]; exact aCell_aLevel seg mant
  rw [alaw2lin_aWire nonneg hseg hmant, lin2alaw_eq_iff hseg hmant]
  cases nonneg with
  | true => exact ⟨decide_eq_true (Int.natCast_nonneg _), hcell⟩
  | false => exact ⟨decide_eq_false (by simp only [Bool.false_eq_true, if_false]; omega), by
      simpa only [Bool.false_eq_true, if_false, Int.natAbs_neg, Int.natAbs_natCast] using hcell⟩

/-- Every A-law result is 8 to 32256 in magnitude (R113). -/
theorem natAbs_alaw2lin (y : Byte) : 8 ≤ (alaw2lin y).natAbs ∧ (alaw2lin y).natAbs ≤ 32256 := by
  obtain ⟨nonneg, seg, hseg, mant, hmant, rfl⟩ := exists_aWire y
  have hle := aLevel_le hseg hmant
  have hge := eight_le_aLevel seg mant
  rw [alaw2lin_aWire nonneg hseg hmant]
  split_ifs <;> omega

/-- An A-law result is a sample, so its pattern reads back as it (R29). -/
theorem sint16_bits16_alaw2lin (y : Byte) : sint16 (bits16 (alaw2lin y)) = alaw2lin y := by
  have := natAbs_alaw2lin y
  exact sint16_bits16 (by omega) (by omega)

/-- No two A-law bytes decode to one sample (R113): the encoder is a left inverse of the decoder. -/
theorem alaw2lin_injective : Function.Injective alaw2lin := Function.LeftInverse.injective lin2alaw_alaw2lin

/-- Wire bit 7 of an A-law byte is its sign (R60). -/
theorem aWire_getLsbD_seven (nonneg : Bool) (seg mant : Nat) : (aWire nonneg seg mant).getLsbD 7 = nonneg := by
  obtain ⟨hsign, -⟩ := aMask_toByte_fields (PlainByte.ofNumbers nonneg seg mant)
  exact hsign.trans (by simp [PlainByte.ofNumbers])

/-- Flipping the sign of a plain byte is flipping its bit 7 (R30). -/
theorem toByte_flip_sign (p : PlainByte) : PlainByte.toByte { p with sign := ~~~p.sign } = p.toByte ^^^ 0x80#8 := by
  obtain ⟨s, g, m⟩ := p
  revert s g m; decide

/-- Flipping the sign of an A-law wire byte is flipping its bit 7 (R60). -/
theorem aWire_not (nonneg : Bool) (seg mant : Nat) : aWire (!nonneg) seg mant = aWire nonneg seg mant ^^^ 0x80#8 := by
  have hflip := toByte_flip_sign (PlainByte.ofNumbers nonneg seg mant)
  have hsign : BitVec.ofBool (!nonneg) = ~~~BitVec.ofBool nonneg := by cases nonneg <;> rfl
  rw [aWire, aWire, aMask, aMask, BitVec.xor_assoc, BitVec.xor_comm Config.aXor, ← BitVec.xor_assoc, ← hflip,
    PlainByte.ofNumbers, PlainByte.ofNumbers, hsign]

/-- A result is positive exactly when wire bit 7 is 1 (R113). -/
theorem alaw2lin_pos_iff (y : Byte) : 0 < alaw2lin y ↔ y.getLsbD 7 = true := by
  obtain ⟨nonneg, seg, hseg, mant, hmant, rfl⟩ := exists_aWire y
  have hge := eight_le_aLevel seg mant
  rw [alaw2lin_aWire nonneg hseg hmant, aWire_getLsbD_seven]
  split_ifs with h
  · exact ⟨fun _ => h, fun _ => by omega⟩
  · exact ⟨fun _ => by omega, fun h' => absurd h' h⟩

/-- Flipping wire bit 7 negates the result (R113). -/
theorem alaw2lin_flip (y : Byte) : alaw2lin (y ^^^ 0x80#8) = -alaw2lin y := by
  obtain ⟨nonneg, seg, hseg, mant, hmant, rfl⟩ := exists_aWire y
  rw [← aWire_not, alaw2lin_aWire _ hseg hmant, alaw2lin_aWire _ hseg hmant]
  cases nonneg with
  | true => rfl
  | false => exact (Int.neg_neg _).symm

/-- The decoder's result on `dout`, read as a sample (R29, R110). -/
theorem toInt_dout_of_exec_alaw2lin {ignored y : Byte} {s t : State} (h : exec (.alaw2lin ignored y) s = .next t) :
    t.dout.toInt = alaw2lin y := by
  obtain ⟨hdout, -⟩ := complete_next ((exec_alaw2lin ignored y s).symm.trans h)
  rw [hdout, ← sint16, sint16_bits16_alaw2lin]

/-- Settles O32: the decoder's facts, read off `dout`. -/
theorem alawDecoderIsOddAndInjective : Obligations.AlawDecoderIsOddAndInjective := by
  intro ign ign' y z s t u v ht hv
  have hy := toInt_dout_of_exec_alaw2lin ht
  have hz := toInt_dout_of_exec_alaw2lin hv
  rw [← BitVec.toInt_inj, hy, hz]
  refine ⟨alaw2lin_injective.eq_iff, (natAbs_alaw2lin y).1, alaw2lin_pos_iff y, ?_⟩
  rintro rfl
  exact alaw2lin_flip y

/-- Negating a sample other than 0 flips the sign of its wire byte and nothing else (R103). -/
theorem lin2alaw_neg {x : Int} (h : x ≠ 0) : lin2alaw (-x) = lin2alaw x ^^^ 0x80#8 := by
  obtain ⟨seg, hseg, mant, hmant, hcell, hbyte⟩ := exists_aCell x
  have hsign : decide (0 ≤ -x) = !decide (0 ≤ x) := by rw [← decide_not, decide_eq_decide]; omega
  rw [hbyte, ← aWire_not, ← hsign, lin2alaw_eq_iff hseg hmant, Int.natAbs_neg]
  exact ⟨rfl, hcell⟩

/-- Negating a positive pattern negates its sample (R29). -/
theorem toInt_neg_of_pos {x : Word} (h : 1 ≤ x.toInt) : (-x).toInt = -x.toInt := by
  have hne : x ≠ BitVec.intMin 16 := by rintro rfl; revert h; decide
  exact BitVec.toInt_neg_of_ne_intMin hne

/-- Settles O28: onto by decoding, symmetry by the cells, zero by the source's vector. -/
theorem alawEncoderIsOntoAndSymmetric : Obligations.AlawEncoderIsOntoAndSymmetric := by
  refine ⟨fun y => ?onto, fun x s t u hx ht hu => ?symmetric, fun s => ?zero⟩
  case onto =>
    refine ⟨bits16 (alaw2lin y), fun s => ?_⟩
    rw [exec_lin2alaw_byte, ← sint16, sint16_bits16_alaw2lin, lin2alaw_alaw2lin]
  case symmetric =>
    cases (exec_lin2alaw_byte x s).symm.trans ht
    cases (exec_lin2alaw_byte (-x) s).symm.trans hu
    change 0#8 ++ lin2alaw (-x).toInt = (0#8 ++ lin2alaw x.toInt) ^^^ (0#8 ++ 0x80#8)
    rw [toInt_neg_of_pos hx, lin2alaw_neg (by omega), BitVec.xor_append, BitVec.xor_zero]
  case zero =>
    obtain ⟨-, -, -, hzero, -⟩ := codec_sourceVectors
    rw [exec_lin2alaw_byte, show (0 : Word).toInt = 0 from rfl, hzero]; rfl

/-- The steps of the eight segments (R101). -/
theorem aStep_mem {seg : Nat} (hseg : seg < 8) : aStep seg ∈ [16, 32, 64, 128, 256, 512, 1024] := by
  revert seg; decide

/-- Settles O31: a byte's samples are one sign and one cell, and it decodes to the middle of that cell. -/
theorem alawDecoderGivesTheMiddleOfTheInterval : Obligations.AlawDecoderGivesTheMiddleOfTheInterval := by
  intro ignored y s x hx
  obtain ⟨seg, hseg, mant, hmant, -, hbyte⟩ := exists_aCell x.toInt
  obtain rfl := hbyte.symm.trans hx
  refine ⟨aLower seg mant, aStep seg, aStep_mem hseg, ?_, fun m => ?_⟩
  · have hlevel : (aLevel seg mant : Int) = aLower seg mant + aStep seg / 2 := by rw [aLevel]; push_cast; rfl
    rw [exec_alaw2lin, complete_eq, bits16, alaw2lin_aWire _ hseg hmant, hlevel]
    simp only [decide_eq_true_eq]
  · rw [lin2alaw_eq_iff hseg hmant, decide_eq_decide]
    exact Iff.rfl

/-! ### The ones'-complement reading (R102) -/

/-- The ones' complement takes 1 off the magnitude of a negative sample (R102). -/
theorem aMagnitude_onesComplement (x : Int) :
    aMagnitude .onesComplement x = if x < 0 then x.natAbs - 1 else x.natAbs := by
  rw [aMagnitude]; split_ifs <;> omega

/-- The two readings part at the negative samples that stand at the lower end of their cell, with -32768 not among them:
both its magnitudes are clamped to the same (R102). -/
theorem onesComplement_ne_iff {x : Int} (hx : -32768 ≤ x) {seg mant : Nat} (hseg : seg < 8) (hmant : mant < 16)
    (hcell : ACell seg mant (min x.natAbs 32767)) :
    lin2alawWith .onesComplement x ≠ lin2alawWith .abs x ↔ x < 0 ∧ x ≠ -32768 ∧ x.natAbs = aLower seg mant := by
  have habs : lin2alawWith .abs x = aWire (decide (0 ≤ x)) seg mant := (lin2alaw_eq_iff hseg hmant).2 ⟨rfl, hcell⟩
  rw [habs, ne_eq, lin2alawWith_eq_iff hseg hmant, and_iff_right rfl, aMagnitude_onesComplement, ACell]
  obtain ⟨hlo, hhi⟩ := hcell
  split_ifs <;> omega

/-- In a cell, the lower end is the multiple of the step. -/
theorem ACell.eq_aLower_iff {seg mant mag : Nat} (h : ACell seg mant mag) :
    mag = aLower seg mant ↔ aStep seg ∣ mag := by
  rw [Nat.dvd_iff_div_mul_eq, (aCell_iff_div seg mant mag).1 h, aLower, eq_comm]

/-- Being a multiple of the step of its segment, as R102 writes it: 16 below 512, and the segment's step above. -/
theorem aStep_dvd_iff {seg mag : Nat} (hi : mag ≤ 32767) (hseg : seg < 8) (h : aSegment (mag / 8) = seg) :
    aStep seg ∣ mag ↔ (mag < 512 ∧ 16 ∣ mag) ∨
      ∃ k, 2 ≤ k ∧ k < 8 ∧ 2 ^ (k + 7) ≤ mag ∧ mag < 2 ^ (k + 8) ∧ 2 ^ (k + 3) ∣ mag := by
  have hspan := (aSegment_div_eight_iff hi).1 h
  obtain hlow | hhigh := Nat.lt_or_ge seg 2
  · have hstep : aStep seg = 16 := by rw [aStep, Nat.max_eq_right (by omega)]; rfl
    have hmag : mag < 512 := by
      split_ifs at hspan with hzero
      · omega
      · obtain rfl : seg = 1 := by omega
        exact hspan.2
    rw [hstep]
    refine ⟨fun hdvd => .inl ⟨hmag, hdvd⟩, ?_⟩
    rintro (⟨-, hdvd⟩ | ⟨k, hk, -, hlo, -⟩)
    · exact hdvd
    · have hpow : 2 ^ 9 ≤ 2 ^ (k + 7) := Nat.pow_le_pow_right (by decide) (by omega)
      omega
  · rw [if_neg (by omega)] at hspan
    obtain ⟨hlo, hhi⟩ := hspan
    rw [aStep_of_ne_zero (by omega)]
    refine ⟨fun hdvd => .inr ⟨seg, hhigh, hseg, hlo, hhi, hdvd⟩, ?_⟩
    rintro (⟨hmag, -⟩ | ⟨k, hk, -, hklo, hkhi, hdvd⟩)
    · have hpow : 2 ^ 9 ≤ 2 ^ (seg + 7) := Nat.pow_le_pow_right (by decide) (by omega)
      omega
    · have hk' : aSegment (mag / 8) = k := (aSegment_div_eight_iff hi).2 (by rw [if_neg (by omega)]; exact ⟨hklo, hkhi⟩)
      rwa [← h, hk']

/-- A cell holds its own lower end. -/
theorem aCell_aLower (seg mant : Nat) : ACell seg mant (aLower seg mant) :=
  ⟨le_rfl, Nat.lt_add_of_pos_right (Nat.two_pow_pos _)⟩

theorem aLower_le {seg mant : Nat} (hseg : seg < 8) (hmant : mant < 16) : aLower seg mant ≤ 32256 :=
  (Nat.le_add_right _ _).trans (aLevel_le hseg hmant)

/-- Different cells have different lower ends. -/
theorem aLower_inj {seg seg' mant mant' : Nat} (hseg : seg < 8) (hmant : mant < 16) (hmant' : mant' < 16)
    (h : aLower seg mant = aLower seg' mant') : seg = seg' ∧ mant = mant' := by
  have hle := aLower_le hseg hmant
  exact (aCell_aLower seg mant).unique (h ▸ aCell_aLower seg' mant') hmant hmant' (by omega)

/-- The negative sample at the lower end of a cell. -/
def negativeLowerEnd (p : Fin 8 × Fin 16) : Word := bits16 (-(aLower p.1 p.2 : Int))

theorem toInt_negativeLowerEnd (p : Fin 8 × Fin 16) : (negativeLowerEnd p).toInt = -(aLower p.1 p.2 : Int) := by
  have hle := aLower_le p.1.isLt p.2.isLt
  exact sint16_bits16 (by omega) (by omega)

theorem negativeLowerEnd_injective : Function.Injective negativeLowerEnd := by
  intro p q h
  have hlower : aLower p.1 p.2 = aLower q.1 q.2 := by
    have := congrArg BitVec.toInt h
    rw [toInt_negativeLowerEnd, toInt_negativeLowerEnd] at this
    omega
  obtain ⟨hseg, hmant⟩ := aLower_inj p.1.isLt p.2.isLt q.2.isLt hlower
  exact Prod.ext (Fin.ext hseg) (Fin.ext hmant)

/-- The two readings part at the lower ends of all cells but the first, whose lower end is 0 and not negative (R102). -/
theorem onesComplement_ne_set :
    {x : Word | lin2alawWith .onesComplement x.toInt ≠ lin2alawWith .abs x.toInt} =
      negativeLowerEnd '' {((0 : Fin 8), (0 : Fin 16))}ᶜ := by
  ext x
  constructor
  · intro hx
    obtain ⟨seg, hseg, mant, hmant, hcell, -⟩ := exists_aCell x.toInt
    obtain ⟨hlo, -⟩ : -32768 ≤ x.toInt ∧ x.toInt ≤ 32767 := sint16_range x
    obtain ⟨hneg, -, hlower⟩ := (onesComplement_ne_iff hlo hseg hmant hcell).1 hx
    refine ⟨(⟨seg, hseg⟩, ⟨mant, hmant⟩), ?_, ?_⟩
    · intro hfirst
      obtain ⟨rfl, rfl⟩ : seg = 0 ∧ mant = 0 := by simpa [Prod.ext_iff, Fin.ext_iff] using hfirst
      rw [show aLower 0 0 = 0 from rfl] at hlower
      omega
    · rw [← BitVec.toInt_inj, toInt_negativeLowerEnd]
      change -(aLower seg mant : Int) = x.toInt
      omega
  · rintro ⟨p, hp, rfl⟩
    have hle := aLower_le p.1.isLt p.2.isLt
    have hpos : aLower p.1 p.2 ≠ 0 := fun h => hp <| by
      obtain ⟨hseg, hmant⟩ := aLower_inj (seg' := 0) (mant' := 0) p.1.isLt p.2.isLt (by decide) h
      exact Prod.ext (Fin.ext hseg) (Fin.ext hmant)
    have hmag : (negativeLowerEnd p).toInt.natAbs = aLower p.1 p.2 := by
      rw [toInt_negativeLowerEnd, Int.natAbs_neg, Int.natAbs_natCast]
    have hcell : ACell p.1 p.2 (min (negativeLowerEnd p).toInt.natAbs 32767) := by
      rw [hmag, Nat.min_eq_left (by omega)]; exact aCell_aLower _ _
    have hint := toInt_negativeLowerEnd p
    exact (onesComplement_ne_iff (by omega) p.1.isLt p.2.isLt hcell).2 ⟨by omega, by omega, hmag⟩

/-- Settles O29: the readings part at the lower ends of cells, which are the multiples of the step, and 127 of the 128
cells have a negative sample there. -/
theorem alawOnesComplementReadingDiffersOn127Samples : Obligations.AlawOnesComplementReadingDiffersOn127Samples := by
  refine ⟨exec_lin2alaw_byte, fun x => ?differ, ?count⟩
  case differ =>
    obtain ⟨seg, hseg, mant, hmant, hcell, -⟩ := exists_aCell x.toInt
    obtain ⟨hlo, hhi⟩ : -32768 ≤ x.toInt ∧ x.toInt ≤ 32767 := sint16_range x
    rw [onesComplement_ne_iff hlo hseg hmant hcell]
    refine and_congr_right fun hneg => and_congr_right fun hne => ?_
    rw [Nat.min_eq_left (by omega)] at hcell
    obtain ⟨hsegment, -⟩ := (aCell_iff (by omega) hmant).1 hcell
    rw [hcell.eq_aLower_iff, aStep_dvd_iff (by omega) hseg hsegment]
  case count =>
    rw [onesComplement_ne_set, Set.ncard_image_of_injective _ negativeLowerEnd_injective, Set.ncard_compl,
      Set.ncard_singleton, Nat.card_prod, Nat.card_fin, Nat.card_fin]

end Sys2Proof.Machine

/-! ## Laws across the operations (spec 45_laws.md) -/

namespace Sys2Proof.Machine

/-! ### From the companded side, and idempotence (R135, R136) -/

/-- Settles O43: the decoder's pattern reads back as its sample, which encodes to the byte. -/
theorem roundTripFromTheCompandedSide : Obligations.RoundTripFromTheCompandedSide := by
  intro ignored y s
  constructor
  · refine ⟨_, _, exec_alaw2lin ignored y s, exec_lin2alaw _ _, ?_⟩
    rw [setDout_dout, setDout_dout, sint16_bits16_alaw2lin, lin2alaw_alaw2lin, zext16_eq]
  · refine ⟨_, _, exec_mulaw2lin ignored y s, exec_lin2mulaw _ _, ?_⟩
    rw [setDout_dout, setDout_dout, sint16_bits16_mulaw2lin, lin2mulaw_mulaw2lin, zext16_eq]

/-- A μ-law result is a fixed point of encode then decode: the one byte that is not kept has the same result (R136). -/
theorem mulaw2lin_lin2mulaw_mulaw2lin (y : Byte) : mulaw2lin (lin2mulaw (mulaw2lin y)) = mulaw2lin y := by
  rw [lin2mulaw_mulaw2lin, mulaw2lin_eq_iff]
  split_ifs with hy
  · exact .inr (.inr ⟨rfl, hy⟩)
  · exact .inl rfl

/-- Settles O44: the companded round trip at the byte of a sample, which is 0x7F from -3 to -1. -/
theorem encodeThenDecodeIsIdempotent : Obligations.EncodeThenDecodeIsIdempotent := by
  refine ⟨fun y => ⟨mulaw2lin_lin2mulaw_mulaw2lin y, by rw [lin2alaw_alaw2lin]⟩,
    fun x => ⟨lin2alaw_alaw2lin _, ?_⟩⟩
  split_ifs with hx
  · have hbyte : lin2mulaw x.toInt = 0x7F#8 := (lin2mulaw_eq_7F_iff _).2 (by omega)
    exact ⟨hbyte, by rw [hbyte, lin2mulaw_mulaw2lin, if_pos rfl]⟩
  · have hbyte : lin2mulaw x.toInt ≠ 0x7F#8 := fun h => hx (by have := (lin2mulaw_eq_7F_iff _).1 h; omega)
    rw [lin2mulaw_mulaw2lin, if_neg hbyte]

/-! ### From the linear side: the result is the middle of the sample's cell (R137) -/

/-- Encode then decode in μ-law gives the middle of the sample's cell, with the sample's sign. -/
theorem mulaw_roundTrip {x : Int} {seg mant : Nat} (hseg : seg < 8) (hmant : mant < 16)
    (hcell : MuCell seg mant (min x.natAbs 32635 + 132)) :
    mulaw2lin (lin2mulaw x) = if x < 0 then -(muLevel seg mant : Int) else muLevel seg mant := by
  rw [(lin2mulaw_eq_iff hseg hmant).2 ⟨rfl, hcell⟩, mulaw2lin_muWire _ hseg hmant]
  simp only [decide_eq_true_eq]

/-- Encode then decode in A-law gives the middle of the sample's cell, with the sample's sign. -/
theorem alaw_roundTrip {x : Int} {seg mant : Nat} (hseg : seg < 8) (hmant : mant < 16)
    (hcell : ACell seg mant (min x.natAbs 32767)) :
    alaw2lin (lin2alaw x) = if x < 0 then -(aLevel seg mant : Int) else aLevel seg mant := by
  rw [(lin2alaw_eq_iff hseg hmant).2 ⟨rfl, hcell⟩, alaw2lin_aWire _ hseg hmant]
  simp only [decide_eq_true_eq, ← Int.not_le, ite_not]

/-- The cell of a sample in a segment that is given by its ends (R74). -/
theorem exists_muCell_of_segment {x : Int} {seg : Nat} (lo : 2 ^ (seg + 7) ≤ min x.natAbs 32635 + 132)
    (hi : min x.natAbs 32635 + 132 < 2 ^ (seg + 8)) : ∃ mant < 16, MuCell seg mant (min x.natAbs 32635 + 132) := by
  obtain ⟨seg', -, mant, hmant, hcell, -⟩ := exists_muCell x
  obtain ⟨hseg, -⟩ := (muCell_iff (by omega) (by omega) hmant).1 hcell
  obtain rfl : seg' = seg := hseg.symm.trans (muSegment_eq lo hi)
  exact ⟨mant, hmant, hcell⟩

/-- The middle of a cell lies in the cell's segment (R74). -/
theorem muLevel_segment {seg mant : Nat} (hmant : mant < 16) :
    2 ^ (seg + 7) ≤ muLevel seg mant + 132 ∧ muLevel seg mant + 132 < 2 ^ (seg + 8) := by
  have hdiv := (muCell_iff_div _ _ _).1 (muCell_muLevel seg mant)
  rw [segment_iff_div, hdiv]
  omega

/-- In the last cell the result is 32124 (R137). -/
theorem muLevel_last {seg mant b : Nat} (hmant : mant < 16) (lo : 31744 ≤ b) (hi : b ≤ 32767)
    (hcell : MuCell seg mant b) : muLevel seg mant = 32124 := by
  obtain ⟨rfl, rfl⟩ := hcell.unique (muCell_last lo hi) hmant (by decide) (by omega) hi
  rfl

/-- The μ-law error, on magnitudes: half a step to either side, in a cell of a step (R137). -/
theorem MuCell.error {seg mant mag : Nat} (h : MuCell seg mant (mag + 132)) :
    muLevel seg mant ≤ mag + 2 ^ (seg + 2) ∧ mag < muLevel seg mant + 2 ^ (seg + 2) := by
  have hbias := muLevel_add_bias seg mant
  obtain ⟨hlo, hhi⟩ := h
  have hstep : 2 ^ (seg + 3) = 2 * 2 ^ (seg + 2) := by ring
  omega

/-- The A-law error, on magnitudes (R137). -/
theorem ACell.error {seg mant mag : Nat} (h : ACell seg mant mag) :
    aLevel seg mant ≤ mag + 2 ^ (max seg 1 + 2) ∧ mag < aLevel seg mant + 2 ^ (max seg 1 + 2) := by
  have hstep := aStep_eq seg
  obtain ⟨hlo, hhi⟩ := h
  rw [aLevel]
  omega

/-- A power of two as a natural number, for bounds on errors that are written as integers. -/
theorem int_two_pow (k : Nat) : (2 : Int) ^ k = (2 ^ k : Nat) := (Nat.cast_pow 2 k).symm

/-- Settles O45: the sample and its result lie in one cell, the result in its middle. -/
theorem mulawRoundTripError : Obligations.MulawRoundTripError := by
  intro x seg hseg lo hi r e
  obtain ⟨mant, hmant, hcell⟩ := exists_muCell_of_segment lo hi
  have hr : r = if x.toInt < 0 then -(muLevel seg mant : Int) else muLevel seg mant := mulaw_roundTrip hseg hmant hcell
  have hx : -32768 ≤ x.toInt ∧ x.toInt ≤ 32767 := sint16_range x
  have hnatAbs : r.natAbs = muLevel seg mant := by rw [hr]; split_ifs <;> omega
  refine ⟨fun hunclipped => ?_, fun hclipped => ?_, fun hclipped => ?_, ?_⟩
  · rw [Nat.min_eq_left hunclipped] at hcell
    have herror := hcell.error
    have he : e = x.toInt.natAbs - muLevel seg mant := by
      simp only [e, hr]; split_ifs <;> omega
    rw [he, int_two_pow]; omega
  · have hlast := muLevel_last hmant (by omega) (by omega) hcell
    rw [hr, if_neg (by omega), hlast]; omega
  · have hlast := muLevel_last hmant (by omega) (by omega) hcell
    rw [hr, if_pos (by omega), hlast]; omega
  · rw [hnatAbs]; exact muLevel_segment hmant

/-- The middle of a cell lies in the cell's segment (R97). -/
theorem aLevel_segment {seg mant : Nat} (hseg : seg < 8) (hmant : mant < 16) :
    if seg = 0 then aLevel seg mant < 256
    else 2 ^ (seg + 7) ≤ aLevel seg mant ∧ aLevel seg mant < 2 ^ (seg + 8) := by
  have hle := aLevel_le hseg hmant
  have hi : aLevel seg mant ≤ 32767 := by omega
  exact (aSegment_div_eight_iff hi).1 ((aCell_iff hi hmant).1 (aCell_aLevel seg mant)).1

/-- Settles O46: the sample and its result lie in one cell, the result in its middle; -32768 is clamped into the
last. -/
theorem alawRoundTripError : Obligations.AlawRoundTripError := by
  intro x seg hseg hspan r e
  obtain ⟨seg', -, mant, hmant, hcell, -⟩ := exists_aCell x.toInt
  obtain rfl : seg' = seg :=
    ((aCell_iff (by omega) hmant).1 hcell).1.symm.trans ((aSegment_div_eight_iff (by omega)).2 hspan)
  have hr : r = if x.toInt < 0 then -(aLevel seg' mant : Int) else aLevel seg' mant :=
    alaw_roundTrip hseg hmant hcell
  have hx : -32768 ≤ x.toInt ∧ x.toInt ≤ 32767 := sint16_range x
  have hnatAbs : r.natAbs = aLevel seg' mant := by rw [hr]; split_ifs <;> omega
  refine ⟨fun hne => ?_, fun hclamped => ?_, ?_⟩
  · rw [Nat.min_eq_left (by omega)] at hcell
    have herror := hcell.error
    have he : e = x.toInt.natAbs - aLevel seg' mant := by
      simp only [e, hr]; split_ifs <;> omega
    rw [he, int_two_pow]; omega
  · have hlast : ACell 7 15 (min x.toInt.natAbs 32767) := by rw [hclamped]; exact ⟨by decide, by decide⟩
    obtain ⟨rfl, rfl⟩ := hcell.unique hlast hmant (by decide) (by omega)
    rw [hr, hclamped]; decide
  · rw [hnatAbs]; exact aLevel_segment hseg hmant

/-! ### Sign, order and symmetry (R138, R139) -/

/-- A μ-law result is 0 exactly from -3 to 3 (R138). -/
theorem muLevel_eq_zero_iff_sample {x : Int} {seg mant : Nat} (hmant : mant < 16)
    (hcell : MuCell seg mant (min x.natAbs 32635 + 132)) : muLevel seg mant = 0 ↔ -3 ≤ x ∧ x ≤ 3 := by
  rw [muLevel_eq_zero_iff hmant, ← muCell_zero_iff]
  constructor
  · rintro ⟨rfl, rfl⟩; exact hcell
  · exact fun hzero => hcell.unique hzero hmant (by decide) (by omega) (by omega)

/-- Settles O47: the result has the sample's sign and the magnitude of the middle of its cell. -/
theorem signThroughTheRoundTrip : Obligations.SignThroughTheRoundTrip := by
  intro x
  obtain ⟨seg, hseg, mant, hmant, hcell, -⟩ := exists_muCell x.toInt
  have hzero := muLevel_eq_zero_iff_sample hmant hcell
  have hmu := mulaw_roundTrip hseg hmant hcell
  obtain ⟨segA, hsegA, mantA, hmantA, hcellA, -⟩ := exists_aCell x.toInt
  have hge := eight_le_aLevel segA mantA
  have ha := alaw_roundTrip hsegA hmantA hcellA
  refine ⟨?_, ?_, ?_, ?_, ?_, ?_⟩
  · rw [hmu]; split_ifs <;> omega
  · rw [hmu]; split_ifs <;> omega
  · rw [hmu]; split_ifs <;> omega
  · intro hx; rw [ha, if_neg (by omega)]; omega
  · intro hx; rw [ha, if_pos hx]; omega
  · intro hx; rw [hx]; decide

/-- The middles of two intervals are in the order of a number of each, when intervals that meet between the two numbers
are one. -/
theorem middle_le_middle {l l' step step' m m' : Nat} (h : l ≤ m ∧ m < l + step) (h' : l' ≤ m' ∧ m' < l' + step')
    (hm : m ≤ m')
    (hmeet : ∀ c, m ≤ c → c ≤ m' → l ≤ c ∧ c < l + step → l' ≤ c ∧ c < l' + step' → l = l' ∧ step = step') :
    l + step / 2 ≤ l' + step' / 2 := by
  obtain hapart | hclose := Nat.lt_or_ge l' (l + step)
  · obtain ⟨rfl, rfl⟩ := hmeet (max m l') (by omega) (by omega) (by omega) (by omega)
    exact le_rfl
  · omega

/-- A larger biased magnitude has no smaller middle (R139). -/
theorem muLevel_mono {seg seg' mant mant' b b' : Nat} (hmant : mant < 16) (hmant' : mant' < 16)
    (h : MuCell seg mant b) (h' : MuCell seg' mant' b') (lo : 132 ≤ b) (hb : b ≤ b') (hi : b' ≤ 32767) :
    muLevel seg mant ≤ muLevel seg' mant' := by
  have hmid := middle_le_middle h h' hb fun c hlo hhi hc hc' => by
    obtain ⟨rfl, rfl⟩ := MuCell.unique (b := c) hc hc' hmant hmant' (by omega) (by omega)
    exact ⟨rfl, rfl⟩
  have hstep (k : Nat) : 2 ^ (k + 3) = 2 * 2 ^ (k + 2) := by ring
  have hbias := muLevel_add_bias seg mant
  have hbias' := muLevel_add_bias seg' mant'
  rw [hstep, hstep] at hmid
  omega

/-- A larger magnitude has no smaller middle (R139). -/
theorem aLevel_mono {seg seg' mant mant' mag mag' : Nat} (hmant : mant < 16) (hmant' : mant' < 16)
    (h : ACell seg mant mag) (h' : ACell seg' mant' mag') (hmag : mag ≤ mag') (hi : mag' ≤ 32767) :
    aLevel seg mant ≤ aLevel seg' mant' :=
  middle_le_middle h h' hmag fun c _ hhi hc hc' => by
    obtain ⟨rfl, rfl⟩ := ACell.unique (mag := c) hc hc' hmant hmant' (by omega)
    exact ⟨rfl, rfl⟩

/-- A signed magnitude keeps the order of samples when the magnitude keeps the order of theirs. -/
theorem signed_le_signed {x z : Int} {m n : Nat} (hxz : x ≤ z) (hpos : x.natAbs ≤ z.natAbs → m ≤ n)
    (hneg : z.natAbs ≤ x.natAbs → n ≤ m) :
    (if x < 0 then -(m : Int) else m) ≤ if z < 0 then -(n : Int) else n := by
  split_ifs <;> omega

theorem mulaw_roundTrip_mono {x z : Int} (hxz : x ≤ z) : mulaw2lin (lin2mulaw x) ≤ mulaw2lin (lin2mulaw z) := by
  obtain ⟨seg, hseg, mant, hmant, hcell, -⟩ := exists_muCell x
  obtain ⟨seg', hseg', mant', hmant', hcell', -⟩ := exists_muCell z
  rw [mulaw_roundTrip hseg hmant hcell, mulaw_roundTrip hseg' hmant' hcell']
  refine signed_le_signed hxz (fun hmag => ?_) (fun hmag => ?_)
  · exact muLevel_mono hmant hmant' hcell hcell' (by omega) (by omega) (by omega)
  · exact muLevel_mono hmant' hmant hcell' hcell (by omega) (by omega) (by omega)

theorem alaw_roundTrip_mono {x z : Int} (hxz : x ≤ z) : alaw2lin (lin2alaw x) ≤ alaw2lin (lin2alaw z) := by
  obtain ⟨seg, hseg, mant, hmant, hcell, -⟩ := exists_aCell x
  obtain ⟨seg', hseg', mant', hmant', hcell', -⟩ := exists_aCell z
  rw [alaw_roundTrip hseg hmant hcell, alaw_roundTrip hseg' hmant' hcell']
  refine signed_le_signed hxz (fun hmag => ?_) (fun hmag => ?_)
  · exact aLevel_mono hmant hmant' hcell hcell' (by omega) (by omega)
  · exact aLevel_mono hmant' hmant hcell' hcell (by omega) (by omega)

/-- The μ-law round trip is odd: a sample and its negative have one cell, and in the cell of 0 the result is 0
(R139). -/
theorem mulaw_roundTrip_neg (x : Int) : mulaw2lin (lin2mulaw (-x)) = -mulaw2lin (lin2mulaw x) := by
  obtain ⟨seg, hseg, mant, hmant, hcell, -⟩ := exists_muCell x
  have hcell' : MuCell seg mant (min (-x).natAbs 32635 + 132) := by rwa [Int.natAbs_neg]
  have hzero := muLevel_eq_zero_iff_sample hmant hcell
  rw [mulaw_roundTrip hseg hmant hcell, mulaw_roundTrip hseg hmant hcell']
  split_ifs <;> omega

/-- The A-law round trip is odd but at 0: the encoder flips bit 7 and the decoder negates (R139). -/
theorem alaw_roundTrip_neg {x : Int} (hx : x ≠ 0) : alaw2lin (lin2alaw (-x)) = -alaw2lin (lin2alaw x) := by
  rw [lin2alaw_neg hx, alaw2lin_flip]

/-- Settles O48: cells are in order and are shared by a sample and its negative. -/
theorem roundTripKeepsOrderAndSymmetry : Obligations.RoundTripKeepsOrderAndSymmetry := by
  obtain ⟨-, -, -, hzero, height⟩ := codec_sourceVectors
  exact ⟨fun x z hxz => ⟨mulaw_roundTrip_mono hxz, alaw_roundTrip_mono hxz⟩, fun x _ => mulaw_roundTrip_neg x.toInt,
    fun x hx => alaw_roundTrip_neg (by omega), by rw [hzero, height]⟩

/-! ### A stream through the encoder and the decoder (R141) -/

/-- The result of an encoder command (R55). -/
theorem resultOf_lin2mulaw (x : Word) : resultOf (0b000#3 ++ x) = zext16 (lin2mulaw x.toInt) := by
  rw [resultOf, selectorOf_append, dinOf_append]
  exact doutOf_eq (evalWith_zero tables x)

/-- The result of a decoder command on a word that carries a byte (R55, R58). -/
theorem resultOf_mulaw2lin (b : Byte) : resultOf (0b001#3 ++ zext16 b) = bits16 (mulaw2lin b) := by
  rw [resultOf, selectorOf_append, dinOf_append, zext16_eq]
  refine (doutOf_eq (evalWith_one tables (0#8 ++ b))).trans ?_
  rw [lowByte_append]

/-- Commands of one defined selector are a safe program (R172). -/
theorem safeProgram_map {op : Selector} (hop : op.toNat < 6) (ws : List Word) :
    SafeProgram (ws.map fun w => op ++ w) := by
  intro c hc
  obtain ⟨w, -, rfl⟩ := List.mem_map.1 hc
  rw [← selectorOf_append op w] at hop
  exact decide_eq_true hop

/-- A sample comes back within the step of its segment (R137, R141). -/
theorem mulaw_roundTrip_within_step (x : Word) :
    ∃ seg, seg < 8 ∧ 2 ^ (seg + 7) ≤ min x.toInt.natAbs 32635 + 132 ∧ min x.toInt.natAbs 32635 + 132 < 2 ^ (seg + 8) ∧
      (x.toInt - mulaw2lin (lin2mulaw x.toInt)).natAbs ≤ 2 ^ (seg + 3) := by
  obtain ⟨seg, hseg, hlo, hhi⟩ := exists_muSegment (b := min x.toInt.natAbs 32635 + 132) (by omega) (by omega)
  obtain ⟨hunclipped, habove, hbelow, -⟩ := mulawRoundTripError x seg hseg hlo hhi
  refine ⟨seg, hseg, hlo, hhi, ?_⟩
  obtain hclip | hle := Nat.lt_or_ge 32635 x.toInt.natAbs
  · obtain ⟨-, hend⟩ := segment_ends seg
    omega
  · have herror := hunclipped hle
    have hstep : 2 ^ (seg + 3) = 2 * 2 ^ (seg + 2) := by ring
    rw [int_two_pow] at herror
    split_ifs at herror <;> omega

/-- Settles O49: the two programs are safe, so each command gets its own result, and the results are round trips. -/
theorem mulawStreamComesBackWithinOneStep : Obligations.MulawStreamComesBackWithinOneStep := by
  intro xs s
  obtain ⟨t, ht, -⟩ := runProgram_of_safeProgram (safeProgram_map (op := 0b000#3) (by decide) xs) s
  rw [List.map_map] at ht
  obtain ⟨u, hu, -⟩ := runProgram_of_safeProgram (safeProgram_map (op := 0b001#3) (by decide)
    (xs.map (resultOf ∘ fun x => 0b000#3 ++ x))) t
  refine ⟨t, u, _, _, ht, hu, List.length_map _, ?_⟩
  rw [List.map_map, List.map_map, List.forall₂_map_right_iff, List.forall₂_same]
  intro x _
  have hback : (resultOf (0b001#3 ++ resultOf (0b000#3 ++ x))).toInt = mulaw2lin (lin2mulaw x.toInt) := by
    rw [resultOf_lin2mulaw, resultOf_mulaw2lin, ← sint16, sint16_bits16_mulaw2lin]
  have hstep := mulaw_roundTrip_within_step x
  rw [← hback] at hstep
  exact hstep

end Sys2Proof.Machine
